-- ==== Sys2Proof/Word.lean ====
section
/-! DEFINITION. The bit vectors of the CHIP-8 core: memory cells and registers are bytes, the program counter,
the index register, stack entries and instruction words are 16 bits (spec/00_scope.md R6). -/

namespace Sys2Proof

/-- A memory cell, a general register or a timer: 8 bits, unsigned (R6, R10, R20, R27). -/
abbrev Byte := BitVec 8

/-- The program counter, the index register, a stack entry or an instruction word: 16 bits (R6, R13, R17, R18, R40). -/
abbrev Word := BitVec 16

end Sys2Proof
end

