-- ==== Sys2Proof/Config.lean ====
section
/-! DEFINITION. What is fixed for the machine (spec/00_scope.md R6), the open startup parameters (R7), and the free
random byte (R107). -/

namespace Sys2Proof.Config

/-- Number of memory cells, addresses 0..4095 (R6, R27). -/
def memorySize : Nat := 4096

/-- Address of the font table, 0x050..0x09F (R6, R28). -/
def fontBase : Nat := 0x50

/-- Bytes of the font table: 16 glyphs of 5 bytes (R6, R28). -/
def fontSize : Nat := 80

/-- Bytes of one glyph (R29). -/
def glyphBytes : Nat := 5

/-- Where the program image is loaded and where execution starts (R6, R13, R112). -/
def programOrigin : Nat := 0x200

/-- Longest program image (R6, R112). -/
def maxImage : Nat := 3584

/-- Return addresses the call stack can hold (R6, R18). -/
def stackDepth : Nat := 16

/-- The 80 font bytes an unlisted font cell reads as.
PRESUMED (log 5): the conventional CHIP-8 font, the default that 20_memory.md R29 offers for the open parameter
`font_table`; unsafe. -/
def font : List Byte :=
  [0xF0, 0x90, 0x90, 0x90, 0xF0,   0x20, 0x60, 0x20, 0x20, 0x70,
   0xF0, 0x10, 0xF0, 0x80, 0xF0,   0xF0, 0x10, 0xF0, 0x10, 0xF0,
   0x90, 0x90, 0xF0, 0x10, 0x10,   0xF0, 0x80, 0xF0, 0x10, 0xF0,
   0xF0, 0x80, 0xF0, 0x90, 0xF0,   0xF0, 0x10, 0x20, 0x40, 0x40,
   0xF0, 0x90, 0xF0, 0x90, 0xF0,   0xF0, 0x90, 0xF0, 0x10, 0xF0,
   0xF0, 0x90, 0xF0, 0x90, 0x90,   0xE0, 0x90, 0xE0, 0x90, 0xE0,
   0xF0, 0x80, 0x80, 0x80, 0xF0,   0xE0, 0x90, 0x90, 0x90, 0xE0,
   0xF0, 0x80, 0xF0, 0x80, 0xF0,   0xF0, 0x80, 0xF0, 0x80, 0x80]

/-- What a memory cell that the state does not list reads as: the font in 0x050..0x09F (R28; log 5), and 0 elsewhere.
DESIGN CHOICE (log 4): the spec leaves the cells outside the font and the image open (`init_mem`, D4); unsafe. -/
def unlisted (a : Nat) : Byte :=
  if fontBase ≤ a ∧ a < fontBase + fontSize then font.getD (a - fontBase) 0 else 0

/-- The byte that the random source supplies for the k-th draw (k counts from 0): a FREE VALUE, any byte under no law
(60_exceptions.md R107, D21; log 9). -/
opaque randByte : Nat → Byte

end Sys2Proof.Config
end

