-- ==== Sys2Proof/Machine/Memory.lean ====
section
/-! DEFINITION. Memory as plain data: the cells that differ from what an unlisted cell reads as, in one canonical form
(spec/20_memory.md R27, R28). Bounds are the accessors' matter (R31, R32; Machine/Ops.lean). -/

namespace Sys2Proof.Machine

/-- Memory: a list of (address, byte) pairs. -/
abbrev Memory := List Host.Cell

/-- The canonical form: addresses strictly rising and below 4096, and no entry equal to what an unlisted address
reads as, so that equal memories are equal lists. -/
def Memory.wf : Memory → Bool
  | [] => true
  | (a, v) :: m =>
    decide (a < Config.memorySize) && decide (v ≠ Config.unlisted a) && m.all (fun c => decide (a < c.1)) && Memory.wf m

/-- The byte at an address: the listed one, else what an unlisted cell reads as. -/
def Memory.read : Memory → Nat → Byte
  | [], a => Config.unlisted a
  | (b, v) :: m, a => if b = a then v else Memory.read m a

/-- The memory without an entry for an address. -/
def Memory.erase : Memory → Nat → Memory
  | [], _ => []
  | (b, v) :: m, a => if b = a then Memory.erase m a else (b, v) :: Memory.erase m a

/-- An entry put in its place in the rising order. -/
def Memory.insert : Memory → Nat → Byte → Memory
  | [], a, v => [(a, v)]
  | (b, w) :: m, a, v => if a < b then (a, v) :: (b, w) :: m else (b, w) :: Memory.insert m a v

/-- One byte written, keeping the canonical form: writing what an unlisted cell reads as removes the entry. -/
def Memory.write (m : Memory) (a : Nat) (v : Byte) : Memory :=
  if v = Config.unlisted a then Memory.erase m a else Memory.insert (Memory.erase m a) a v

/-- Bytes written at consecutive addresses from a. -/
def Memory.writeBytes : Memory → Nat → List Byte → Memory
  | m, _, [] => m
  | m, a, b :: bs => Memory.writeBytes (Memory.write m a b) (a + 1) bs

/-- The n bytes at consecutive addresses from a. -/
def Memory.readBytes : Memory → Nat → Nat → List Byte
  | _, _, 0 => []
  | m, a, n + 1 => Memory.read m a :: Memory.readBytes m (a + 1) n

end Sys2Proof.Machine
end

