-- ==== Sys2Proof/Machine/State.lean ====
section
/-! DEFINITION. The machine's state, every piece that spec/10_state.md gives it, its value after reset, and the reasons
a step can stop. -/

namespace Sys2Proof.Machine

/-- The fatal kinds, all distinguishable (spec/60_exceptions.md R92, R93). -/
inductive FatalKind where
  /-- The program image is longer than 3584 bytes (R112). -/
  | loadSize
  /-- A call with 16 addresses on the stack (R59). -/
  | stackOverflow
  /-- A return with the stack empty (R57). -/
  | stackUnderflow
  /-- A memory access past cell 4095, or an index past its array (R95). -/
  | outOfBounds
deriving DecidableEq, Repr

/-- The run status (R24). -/
inductive Status where
  | running
  | halted (kind : FatalKind)
deriving DecidableEq, Repr

/-- One report of an unknown instruction word: the word and its address (R96; log 15). -/
structure UnknownReport where
  word : Word
  addr : Word
deriving DecidableEq, Repr

/-- The framebuffer: 32 rows of 64 cells, true for on (R21; log 13). -/
abbrev Framebuffer := Vector (Vector Bool 64) 32

/-- The machine state: the tuple of spec/10_state.md, and the model's own `randDraws` and `loadOpen`. -/
structure State where
  /-- The 4096 memory cells, of which only those that differ from `Config.unlisted` are listed (R27, R28). -/
  mem : Memory
  /-- The general registers V0..VF; VF is register 15 (R10, R11). -/
  v : Vector Byte 16
  /-- The program counter, 16 bits, neither masked nor even (R13). -/
  pc : Word
  /-- The index register I, 16 bits (R17). -/
  index : Word
  /-- The 16 entries of the call stack (R18). -/
  stack : Vector Word 16
  /-- The number of addresses the call stack holds, in [0,16] (R18). -/
  sp : Fin 17
  /-- The delay timer DT (R20). -/
  dt : Byte
  /-- The sound timer ST (R20). -/
  st : Byte
  /-- The framebuffer (R21). -/
  fb : Framebuffer
  /-- The key state, true for pressed; the core only reads it (R23). -/
  keys : Vector Bool 16
  /-- The run status (R24). -/
  status : Status
  /-- The reports of unknown words made so far, oldest first (R24, R96). -/
  diag : List UnknownReport
  /-- The model's own: how many random bytes have been drawn; the next one is `Config.randByte randDraws` (R107; log 9). -/
  randDraws : Nat
  /-- The model's own: whether `load` may still be invoked, once and before the first cycle (R112; log 12). -/
  loadOpen : Bool
deriving DecidableEq, Repr

/-- Every framebuffer cell off (R21). -/
def Framebuffer.blank : Framebuffer := Vector.replicate 32 (Vector.replicate 64 false)

/-- The open startup parameters of spec/00_scope.md R7. `initMem` lists the cells that differ from
`Config.unlisted`; the font is written over it. -/
structure Startup where
  initV : Vector Byte 16
  initDt : Byte
  initSt : Byte
  initFb : Framebuffer
  initMem : Memory
  fontTable : List Byte
  initKeys : Vector Bool 16
deriving DecidableEq, Repr

/-- Startup parameters the machine can have: a font of 80 bytes and a canonical memory (R7, R28). -/
def Startup.wf (p : Startup) : Bool := decide (p.fontTable.length = Config.fontSize) && Memory.wf p.initMem

/-- The machine as it is constructed, before any load, for given startup parameters (R26, R111, R113). -/
def State.construct (p : Startup) : State where
  mem := Memory.writeBytes p.initMem Config.fontBase p.fontTable
  v := p.initV
  pc := 0x200
  index := 0
  stack := Vector.replicate 16 0
  sp := 0
  dt := p.initDt
  st := p.initSt
  fb := p.initFb
  keys := p.initKeys
  status := .running
  diag := []
  randDraws := 0
  loadOpen := true

/-- The machine right after reset: R26, with the values that logs 1 to 7, 9 and 12 name where the spec leaves one open. -/
def State.reset : State where
  mem := []
  v := Vector.replicate 16 0
  pc := 0x200
  index := 0
  stack := Vector.replicate 16 0
  sp := 0
  dt := 0
  st := 0
  fb := Framebuffer.blank
  keys := Vector.replicate 16 false
  status := .running
  diag := []
  randDraws := 0
  loadOpen := true

/-- Why a step stops. -/
inductive Fault where
  /-- Raised by `step` on a machine that is already Halted(kind): "a halted machine takes no further step" (R94). Safe:
  the hardware has no further step either (log 10). -/
  | halted (kind : FatalKind)
deriving DecidableEq, Repr

/-- What has no meaning in the model. -/
inductive Refusal where
  /-- Raised by an arm of `exec` whose instruction has no meaning yet; no arm raises it now. Safe. -/
  | notModelled (mnemonic : String)
  /-- Raised by `load` after the first cycle, after another load or on a halted machine: "not part of the block's
  interface and a model refuses it" (R112, D23). Safe (log 12). -/
  | loadNotAllowed
deriving DecidableEq, Repr

end Sys2Proof.Machine
end

