-- ==== Sys2Proof/Machine/Flags.lean ====
section
/-! DEFINITION. The values that the flag-setting instructions write to VF, each 0 or 1 (spec/10_state.md R11,
spec/42_alu.md R73 to R77). -/

namespace Sys2Proof.Machine

/-- A flag value: 1 if the condition holds, else 0 (R11). -/
def flag (b : Bool) : Byte := if b then 1 else 0

/-- The carry of 8xy4: the widened sum exceeds 255 (R73). -/
def flagCarry (a b : Byte) : Byte := flag (decide (a.toNat + b.toNat > 255))

/-- The flag of 8xy5 and 8xy7: minuend strictly greater than subtrahend, so 0 on equal operands (R74, R76; 90_conflicts C2). -/
def flagGreater (minuend subtrahend : Byte) : Byte := flag (decide (minuend.toNat > subtrahend.toNat))

/-- The bit that 8xy6 shifts out: bit 0 of the old value (R75). -/
def flagLowBit (a : Byte) : Byte := BitVec.ofNat 8 (a.toNat % 2)

/-- The bit that 8xyE shifts out, normalized to 0 or 1: bit 7 of the old value (R77). -/
def flagHighBit (a : Byte) : Byte := BitVec.ofNat 8 (a.toNat / 128 % 2)

end Sys2Proof.Machine
end

