-- ==== Sys2Proof/Syntax.lean ====
section
/-! DEFINITION. The 34 instructions, one constructor for each row of spec/opcode_table.json (spec/30_encoding.md R45),
with the constructor names of that rule. -/

namespace Sys2Proof

/-- The number of a general register: a 4-bit field, always in 0..15 (R12, R41). -/
abbrev Reg := Fin 16

/-- An immediate address: 12 bits (R41). -/
abbrev Addr := BitVec 12

/-- The base CHIP-8 instruction set of this core (R2, R45). `shr` and `shl` keep the y field that the instruction
ignores (R46), so that no bit of the word is lost (DESIGN CHOICE, log 16; safe). -/
inductive Instr where
  /-- 00E0: clear the screen (R51). -/
  | cls
  /-- 00EE: return from subroutine (R57). -/
  | ret
  /-- 1nnn: jump (R58). -/
  | jp (nnn : Addr)
  /-- 2nnn: call subroutine (R59). -/
  | call (nnn : Addr)
  /-- 3xkk: skip if register equals byte (R60). -/
  | seImm (x : Reg) (kk : Byte)
  /-- 4xkk: skip if register differs from byte (R61). -/
  | sneImm (x : Reg) (kk : Byte)
  /-- 5xy0: skip if registers equal (R62). -/
  | seReg (x y : Reg)
  /-- 6xkk: load byte (R67). -/
  | ldImm (x : Reg) (kk : Byte)
  /-- 7xkk: add byte (R68). -/
  | addImm (x : Reg) (kk : Byte)
  /-- 8xy0: copy register (R69). -/
  | ldReg (x y : Reg)
  /-- 8xy1: OR (R70). -/
  | orReg (x y : Reg)
  /-- 8xy2: AND (R71). -/
  | andReg (x y : Reg)
  /-- 8xy3: XOR (R72). -/
  | xorReg (x y : Reg)
  /-- 8xy4: add with carry (R73). -/
  | addReg (x y : Reg)
  /-- 8xy5: subtract with borrow flag (R74). -/
  | sub (x y : Reg)
  /-- 8xy6: shift right; y is ignored (R46, R75). -/
  | shr (x y : Reg)
  /-- 8xy7: reverse subtract (R76). -/
  | subn (x y : Reg)
  /-- 8xyE: shift left; y is ignored (R46, R77). -/
  | shl (x y : Reg)
  /-- 9xy0: skip if registers differ (R63). -/
  | sneReg (x y : Reg)
  /-- Annn: load index (R79). -/
  | ldI (nnn : Addr)
  /-- Bnnn: jump with offset V0 (R64). -/
  | jpV0 (nnn : Addr)
  /-- Cxkk: random byte (R78). -/
  | rnd (x : Reg) (kk : Byte)
  /-- Dxyn: draw a sprite of n rows (R52). -/
  | drw (x y : Reg) (n : Fin 16)
  /-- Ex9E: skip if key pressed (R86). -/
  | skp (x : Reg)
  /-- ExA1: skip if key not pressed (R87). -/
  | sknp (x : Reg)
  /-- Fx07: read delay timer (R88). -/
  | ldVxDt (x : Reg)
  /-- Fx0A: wait for key (R89). -/
  | ldVxK (x : Reg)
  /-- Fx15: set delay timer (R90). -/
  | ldDtVx (x : Reg)
  /-- Fx18: set sound timer (R91). -/
  | ldStVx (x : Reg)
  /-- Fx1E: add register to index (R80). -/
  | addIVx (x : Reg)
  /-- Fx29: point index at glyph (R81). -/
  | ldFVx (x : Reg)
  /-- Fx33: store decimal digits (R82). -/
  | ldBVx (x : Reg)
  /-- Fx55: store registers (R83). -/
  | ldMemVx (x : Reg)
  /-- Fx65: load registers (R84). -/
  | ldVxMem (x : Reg)
deriving DecidableEq, Repr

end Sys2Proof
end

