-- ==== Sys2Proof/Decode.lean ====
section
/-! DEFINITION. Instruction words: their fields, the decoder (spec/30_encoding.md R41, R44, R48), and the encoder written
from the same table. -/

namespace Sys2Proof

/-- Why bytes are no instruction. -/
inductive DecodeReject where
  /-- The word matches none of the 34 patterns (R48). -/
  | unknown (w : Word)
  /-- Fewer than the two bytes of an instruction word (R40). -/
  | truncated (n : Nat)
deriving DecidableEq, Repr

/-- The word with the byte at the lower address in bits 15..8 (20_memory.md R33, R43). -/
def wordOfBytes (hi lo : Byte) : Word := BitVec.ofNat 16 (hi.toNat * 256 + lo.toNat)

/-- Bits 15..8, the byte at the lower address (R33). -/
def wordHi (w : Word) : Byte := BitVec.ofNat 8 (w.toNat / 256)

/-- Bits 7..0, the byte at the higher address (R33). -/
def wordLo (w : Word) : Byte := BitVec.ofNat 8 w.toNat

/-- The unsigned value of bits hi down to lo (00_scope.md section 5). -/
def bits (w : Word) (hi lo : Nat) : Nat := w.toNat / 2 ^ lo % 2 ^ (hi + 1 - lo)

/-- category = w[15:12] (R41). -/
def fieldCategory (w : Word) : Nat := w.toNat / 4096

/-- x = w[11:8] (R41). -/
def fieldX (w : Word) : Reg := Fin.ofNat 16 (w.toNat / 256)

/-- y = w[7:4] (R41). -/
def fieldY (w : Word) : Reg := Fin.ofNat 16 (w.toNat / 16)

/-- n = w[3:0] (R41). -/
def fieldN (w : Word) : Fin 16 := Fin.ofNat 16 w.toNat

/-- kk = w[7:0] (R41). -/
def fieldKK (w : Word) : Byte := BitVec.ofNat 8 w.toNat

/-- nnn = w[11:0] (R41). -/
def fieldNNN (w : Word) : Addr := BitVec.ofNat 12 w.toNat

/-- Category 8, told apart by n (R44). -/
def decodeArith (w : Word) : Except DecodeReject Instr :=
  match (fieldN w).val with
  | 0x0 => .ok (.ldReg (fieldX w) (fieldY w))
  | 0x1 => .ok (.orReg (fieldX w) (fieldY w))
  | 0x2 => .ok (.andReg (fieldX w) (fieldY w))
  | 0x3 => .ok (.xorReg (fieldX w) (fieldY w))
  | 0x4 => .ok (.addReg (fieldX w) (fieldY w))
  | 0x5 => .ok (.sub (fieldX w) (fieldY w))
  | 0x6 => .ok (.shr (fieldX w) (fieldY w))
  | 0x7 => .ok (.subn (fieldX w) (fieldY w))
  | 0xE => .ok (.shl (fieldX w) (fieldY w))
  | _ => .error (.unknown w)

/-- Category E, told apart by kk (R44). -/
def decodeKey (w : Word) : Except DecodeReject Instr :=
  match (fieldKK w).toNat with
  | 0x9E => .ok (.skp (fieldX w))
  | 0xA1 => .ok (.sknp (fieldX w))
  | _ => .error (.unknown w)

/-- Category F, told apart by kk (R44). -/
def decodeMisc (w : Word) : Except DecodeReject Instr :=
  match (fieldKK w).toNat with
  | 0x07 => .ok (.ldVxDt (fieldX w))
  | 0x0A => .ok (.ldVxK (fieldX w))
  | 0x15 => .ok (.ldDtVx (fieldX w))
  | 0x18 => .ok (.ldStVx (fieldX w))
  | 0x1E => .ok (.addIVx (fieldX w))
  | 0x29 => .ok (.ldFVx (fieldX w))
  | 0x33 => .ok (.ldBVx (fieldX w))
  | 0x55 => .ok (.ldMemVx (fieldX w))
  | 0x65 => .ok (.ldVxMem (fieldX w))
  | _ => .error (.unknown w)

/-- The word of a category, none of the two whole-word opcodes (R44). -/
def decodeFamily (w : Word) (category : Nat) : Except DecodeReject Instr :=
  match category with
  | 0x0 => .error (.unknown w)
  | 0x1 => .ok (.jp (fieldNNN w))
  | 0x2 => .ok (.call (fieldNNN w))
  | 0x3 => .ok (.seImm (fieldX w) (fieldKK w))
  | 0x4 => .ok (.sneImm (fieldX w) (fieldKK w))
  | 0x5 => if (fieldN w).val = 0 then .ok (.seReg (fieldX w) (fieldY w)) else .error (.unknown w)
  | 0x6 => .ok (.ldImm (fieldX w) (fieldKK w))
  | 0x7 => .ok (.addImm (fieldX w) (fieldKK w))
  | 0x8 => decodeArith w
  | 0x9 => if (fieldN w).val = 0 then .ok (.sneReg (fieldX w) (fieldY w)) else .error (.unknown w)
  | 0xA => .ok (.ldI (fieldNNN w))
  | 0xB => .ok (.jpV0 (fieldNNN w))
  | 0xC => .ok (.rnd (fieldX w) (fieldKK w))
  | 0xD => .ok (.drw (fieldX w) (fieldY w) (fieldN w))
  | 0xE => decodeKey w
  | 0xF => decodeMisc w
  | _ => .error (.unknown w)

/-- The decoder of one word: the two whole-word opcodes first, then the category and the sub-opcode (R44). Every word
that matches no pattern is rejected as unknown (R48). -/
def decodeWord (w : Word) : Except DecodeReject Instr :=
  if w.toNat = 0x00E0 then .ok .cls
  else if w.toNat = 0x00EE then .ok .ret
  else decodeFamily w (fieldCategory w)

/-- The instruction at the start of a list of bytes, with the bytes after it: always two bytes (R40), the first the
high one (R33). -/
def decode (bytes : List Byte) : Except DecodeReject (Instr × List Byte) :=
  match bytes with
  | hi :: lo :: rest =>
    match decodeWord (wordOfBytes hi lo) with
    | .ok i => .ok (i, rest)
    | .error r => .error r
  | [] => .error (.truncated 0)
  | [_] => .error (.truncated 1)

/-- The number of the XKK format: category c, register x, byte kk (R42). -/
def codeXKK (c : Nat) (x : Reg) (kk : Byte) : Nat := c * 4096 + x.val * 256 + kk.toNat

/-- The number of the XY and XYN formats: category c, registers x and y, low digit n (R42). -/
def codeXYN (c : Nat) (x y : Reg) (n : Nat) : Nat := c * 4096 + x.val * 256 + y.val * 16 + n

/-- The number of the ADDR format: category c, address nnn (R42). -/
def codeADDR (c : Nat) (nnn : Addr) : Nat := c * 4096 + nnn.toNat

/-- The number of the XOP format: category c, register x, sub-opcode kk (R42). -/
def codeXOP (c : Nat) (x : Reg) (kk : Nat) : Nat := c * 4096 + x.val * 256 + kk

/-- The number of an instruction's word (R42, R45). -/
def encodeNat : Instr → Nat
  | .cls => 0x00E0
  | .ret => 0x00EE
  | .jp nnn => codeADDR 0x1 nnn
  | .call nnn => codeADDR 0x2 nnn
  | .seImm x kk => codeXKK 0x3 x kk
  | .sneImm x kk => codeXKK 0x4 x kk
  | .seReg x y => codeXYN 0x5 x y 0x0
  | .ldImm x kk => codeXKK 0x6 x kk
  | .addImm x kk => codeXKK 0x7 x kk
  | .ldReg x y => codeXYN 0x8 x y 0x0
  | .orReg x y => codeXYN 0x8 x y 0x1
  | .andReg x y => codeXYN 0x8 x y 0x2
  | .xorReg x y => codeXYN 0x8 x y 0x3
  | .addReg x y => codeXYN 0x8 x y 0x4
  | .sub x y => codeXYN 0x8 x y 0x5
  | .shr x y => codeXYN 0x8 x y 0x6
  | .subn x y => codeXYN 0x8 x y 0x7
  | .shl x y => codeXYN 0x8 x y 0xE
  | .sneReg x y => codeXYN 0x9 x y 0x0
  | .ldI nnn => codeADDR 0xA nnn
  | .jpV0 nnn => codeADDR 0xB nnn
  | .rnd x kk => codeXKK 0xC x kk
  | .drw x y n => codeXYN 0xD x y n.val
  | .skp x => codeXOP 0xE x 0x9E
  | .sknp x => codeXOP 0xE x 0xA1
  | .ldVxDt x => codeXOP 0xF x 0x07
  | .ldVxK x => codeXOP 0xF x 0x0A
  | .ldDtVx x => codeXOP 0xF x 0x15
  | .ldStVx x => codeXOP 0xF x 0x18
  | .addIVx x => codeXOP 0xF x 0x1E
  | .ldFVx x => codeXOP 0xF x 0x29
  | .ldBVx x => codeXOP 0xF x 0x33
  | .ldMemVx x => codeXOP 0xF x 0x55
  | .ldVxMem x => codeXOP 0xF x 0x65

/-- The word of an instruction. -/
def encodeWord (i : Instr) : Word := BitVec.ofNat 16 (encodeNat i)

/-- The bytes of an instruction as they lie in memory, the high byte first (R33). -/
def encode (i : Instr) : List Byte := [wordHi (encodeWord i), wordLo (encodeWord i)]

/-- The fixed bits of an instruction's row in spec/opcode_table.json: (hi, lo, value) for each run of fixed bits. -/
def fixedBits : Instr → List (Nat × Nat × Nat)
  | .cls => [(15, 0, 224)]
  | .ret => [(15, 0, 238)]
  | .jp _ => [(15, 12, 1)]
  | .call _ => [(15, 12, 2)]
  | .seImm _ _ => [(15, 12, 3)]
  | .sneImm _ _ => [(15, 12, 4)]
  | .seReg _ _ => [(3, 0, 0), (15, 12, 5)]
  | .ldImm _ _ => [(15, 12, 6)]
  | .addImm _ _ => [(15, 12, 7)]
  | .ldReg _ _ => [(3, 0, 0), (15, 12, 8)]
  | .orReg _ _ => [(3, 0, 1), (15, 12, 8)]
  | .andReg _ _ => [(3, 0, 2), (15, 12, 8)]
  | .xorReg _ _ => [(3, 0, 3), (15, 12, 8)]
  | .addReg _ _ => [(3, 0, 4), (15, 12, 8)]
  | .sub _ _ => [(3, 0, 5), (15, 12, 8)]
  | .shr _ _ => [(3, 0, 6), (15, 12, 8)]
  | .subn _ _ => [(3, 0, 7), (15, 12, 8)]
  | .shl _ _ => [(3, 0, 14), (15, 12, 8)]
  | .sneReg _ _ => [(3, 0, 0), (15, 12, 9)]
  | .ldI _ => [(15, 12, 10)]
  | .jpV0 _ => [(15, 12, 11)]
  | .rnd _ _ => [(15, 12, 12)]
  | .drw _ _ _ => [(15, 12, 13)]
  | .skp _ => [(7, 0, 158), (15, 12, 14)]
  | .sknp _ => [(7, 0, 161), (15, 12, 14)]
  | .ldVxDt _ => [(7, 0, 7), (15, 12, 15)]
  | .ldVxK _ => [(7, 0, 10), (15, 12, 15)]
  | .ldDtVx _ => [(7, 0, 21), (15, 12, 15)]
  | .ldStVx _ => [(7, 0, 24), (15, 12, 15)]
  | .addIVx _ => [(7, 0, 30), (15, 12, 15)]
  | .ldFVx _ => [(7, 0, 41), (15, 12, 15)]
  | .ldBVx _ => [(7, 0, 51), (15, 12, 15)]
  | .ldMemVx _ => [(7, 0, 85), (15, 12, 15)]
  | .ldVxMem _ => [(7, 0, 101), (15, 12, 15)]

/-- The instruction whose bits are w, numbered as spec/opcode_table.json numbers them: the word's two bytes as memory
holds them, given to the decoder. Every row of the table has 16 bits. -/
def decodeTableWord (nbits w : Nat) : Option Instr :=
  match decode [wordHi (BitVec.ofNat 16 (w % 2 ^ nbits)), wordLo (BitVec.ofNat 16 (w % 2 ^ nbits))] with
  | .ok (i, _) => some i
  | .error _ => none

end Sys2Proof
end

