-- ==== Sys2Proof/Machine/Ops.lean ====
section
/-! DEFINITION. The named operations over the state: one setter for each field, the memory primitives
(spec/20_memory.md R31, R32), the call stack (spec/10_state.md R19), raising a fatal error and reporting an unknown word
(spec/60_exceptions.md R94, R96), the fetch (spec/30_encoding.md R43) and the timers (R102). -/

namespace Sys2Proof.Machine

/-! ## Registers and other single fields -/

/-- V[x] (R10). -/
def State.getV (s : State) (x : Reg) : Byte := s.v[x]

/-- V[x] <- b (R10). -/
def State.setV (s : State) (x : Reg) (b : Byte) : State := { s with v := s.v.set x b }

/-- The whole register file replaced (Fx65). -/
def State.setVs (s : State) (v : Vector Byte 16) : State := { s with v := v }

/-- pc <- target (R15). -/
def State.setPc (s : State) (target : Word) : State := { s with pc := target }

/-- I <- a (R17). -/
def State.setIndex (s : State) (a : Word) : State := { s with index := a }

/-- The call stack's entries and pointer (R18). -/
def State.setStack (s : State) (stack : Vector Word 16) (sp : Fin 17) : State := { s with stack := stack, sp := sp }

/-- DT <- b (R20). -/
def State.setDt (s : State) (b : Byte) : State := { s with dt := b }

/-- ST <- b (R20). -/
def State.setSt (s : State) (b : Byte) : State := { s with st := b }

/-- The framebuffer replaced (R22). -/
def State.setFb (s : State) (fb : Framebuffer) : State := { s with fb := fb }

/-- Memory replaced (R27). -/
def State.setMem (s : State) (m : Memory) : State := { s with mem := m }

/-- The key state replaced, by the input collaborator only (R23, R105). -/
def State.setKeys (s : State) (keys : Vector Bool 16) : State := { s with keys := keys }

/-- The run status (R24). -/
def State.setStatus (s : State) (status : Status) : State := { s with status := status }

/-- One report appended to the diagnostics (R96). -/
def State.addReport (s : State) (r : UnknownReport) : State := { s with diag := s.diag ++ [r] }

/-- The number of random bytes drawn (R107; log 9). -/
def State.setDraws (s : State) (n : Nat) : State := { s with randDraws := n }

/-- From the first load or cycle on, no load is allowed (R112; log 12). -/
def State.closeLoad (s : State) : State := { s with loadOpen := false }

/-! ## The program counter -/

/-- advance(2): the next instruction word is not executed (R15, R56). The sum does not wrap after a fetch (R16; log 14). -/
def State.skip (s : State) : State := s.setPc (s.pc + 2)

/-- The skip of a conditional skip instruction (R56). -/
def State.skipIf (s : State) (c : Bool) : State := if c then s.skip else s

/-- retreat(2): back to the instruction being executed (R15, R89). -/
def State.retreat (s : State) : State := s.setPc (s.pc - 2)

/-! ## Errors -/

/-- raise Fatal(kind): the status becomes Halted(kind) and the instruction has no other effect (R94; log 10). There is no
handler, saved pc or cause, and no return from it (R92, R100): nothing leaves Halted. -/
def State.raiseFatal (s : State) (kind : FatalKind) : State := s.setStatus (.halted kind)

/-- The next state of an instruction that can raise one fatal error: its effect, or the error where it has none. -/
def State.orFatal (s : State) (kind : FatalKind) : Option State → Host.Outcome State Fault Refusal
  | some t => .next t
  | none => .next (s.raiseFatal kind)

/-- report Unknown(w, pc - 2), run after the fetch, so that pc - 2 is the word's address (R96). -/
def State.reportUnknown (s : State) (w : Word) : State := s.addReport { word := w, addr := s.pc - 2 }

/-! ## Memory -/

/-- MemRead(a, 1); none where it raises Fatal(OutOfBounds) (R31). -/
def State.memRead (s : State) (a : Nat) : Option Byte :=
  if a > 4095 then none else some (Memory.read s.mem a)

/-- MemWrite(a, 1, v); none where it raises Fatal(OutOfBounds) (R31). -/
def State.memWrite (s : State) (a : Nat) (v : Byte) : Option State :=
  if a > 4095 then none else some (s.setMem (Memory.write s.mem a v))

/-- ReadRange(lo, hi), half-open; none where it raises Fatal(OutOfBounds), checked whole (R32). -/
def State.readRange (s : State) (lo hi : Nat) : Option (List Byte) :=
  if hi > 4096 then none else some (Memory.readBytes s.mem lo (hi - lo))

/-- WriteRange(lo, bytes); none where it raises Fatal(OutOfBounds), checked before any byte moves (R32). -/
def State.writeRange (s : State) (lo : Nat) (bytes : List Byte) : Option State :=
  if lo + bytes.length > 4096 then none else some (s.setMem (Memory.writeBytes s.mem lo bytes))

/-! ## The call stack -/

/-- Push(a); none where it raises Fatal(StackOverflow) (R19). -/
def State.push (s : State) (a : Word) : Option State :=
  if h : s.sp.val < 16 then some (s.setStack (s.stack.set s.sp.val a) ⟨s.sp.val + 1, by omega⟩) else none

/-- Pop(): the top address and the state without it; none where it raises Fatal(StackUnderflow) (R19). -/
def State.pop (s : State) : Option (Word × State) :=
  if h : 0 < s.sp.val then some (s.stack[s.sp.val - 1], s.setStack s.stack ⟨s.sp.val - 1, by omega⟩) else none

/-! ## Register ranges -/

/-- dump(x): the registers V0..Vx (R83). -/
def State.dump (s : State) (x : Reg) : List Byte := s.v.toList.take (x.val + 1)

/-- load: bytes copied into the registers from number j on (R84). -/
def loadRegs : Vector Byte 16 → Nat → List Byte → Vector Byte 16
  | v, _, [] => v
  | v, j, b :: bs => loadRegs (v.setIfInBounds j b) (j + 1) bs

/-! ## The framebuffer -/

/-- fb[r][c], the row and the column reduced mod 32 and mod 64 (R21, R52). -/
def Framebuffer.cell (fb : Framebuffer) (r c : Nat) : Bool :=
  (fb[r % 32]'(Nat.mod_lt r (by decide)))[c % 64]'(Nat.mod_lt c (by decide))

/-- fb[r][c] XORed with all-one bits, the row and the column reduced mod 32 and mod 64 (R21, R52). -/
def Framebuffer.toggle (fb : Framebuffer) (r c : Nat) : Framebuffer :=
  fb.set (r % 32)
    ((fb[r % 32]'(Nat.mod_lt r (by decide))).set (c % 64) (!fb.cell r c) (Nat.mod_lt c (by decide)))
    (Nat.mod_lt r (by decide))

/-- A framebuffer being drawn on, and the collision flag so far (R25, R52). -/
structure Canvas where
  fb : Framebuffer
  collision : Bool
deriving DecidableEq, Repr

/-- One sprite bit that is 1: collide if the cell is on, then toggle it (R52). -/
def Canvas.dot (d : Canvas) (r c : Nat) : Canvas :=
  { fb := d.fb.toggle r c, collision := d.collision || d.fb.cell r c }

/-- Bit col of a sprite row, column 0 the most significant bit (R52). -/
def spriteBit (row : Byte) (col : Nat) : Bool := row.getLsbD (7 - col)

/-- The columns listed of one sprite row, drawn on screen row r from screen column px (R52). -/
def Canvas.drawCols (d : Canvas) (row : Byte) (r px : Nat) : List Nat → Canvas
  | [] => d
  | col :: cols => Canvas.drawCols (if spriteBit row col then d.dot r (px + col) else d) row r px cols

/-- The sprite rows, each of 8 columns, drawn from screen row r and column px on (R52). -/
def Canvas.drawRows (d : Canvas) (r px : Nat) : List Byte → Canvas
  | [] => d
  | row :: rows => Canvas.drawRows (d.drawCols row r px [0, 1, 2, 3, 4, 5, 6, 7]) (r + 1) px rows

/-- draw_sprite: the collision flag starts cleared (R52). -/
def Framebuffer.drawSprite (fb : Framebuffer) (px py : Byte) (sprite : List Byte) : Canvas :=
  Canvas.drawRows { fb := fb, collision := false } py.toNat px.toNat sprite

/-! ## Keys, random bytes, timers -/

/-- LowestPressed(): the smallest pressed key, or none (R89, R105). -/
def State.lowestPressed (s : State) : Option (Fin 16) := (List.finRange 16).find? fun k => s.keys[k]

/-- draw Rand(): the next byte of the random source (R107; log 9). -/
def State.rand (s : State) : Byte := Config.randByte s.randDraws

/-- The state after one random byte is drawn (R78, R107). -/
def State.afterDraw (s : State) : State := s.setDraws (s.randDraws + 1)

/-- A timer at the end of a cycle: one less while positive, never below 0 (R102). -/
def tick (t : Byte) : Byte := if t = 0 then 0 else t - 1

/-- Both timers at the end of a cycle (R102). -/
def State.tickTimers (s : State) : State := (s.setDt (tick s.dt)).setSt (tick s.st)

/-! ## The fetch -/

/-- Fetch(): the big-endian word at pc, and pc advanced by 2; none where it raises Fatal(OutOfBounds) (R43). -/
def State.fetch (s : State) : Option (Word × State) :=
  if s.pc.toNat + 1 > 4095 then none
  else some (wordOfBytes (Memory.read s.mem s.pc.toNat) (Memory.read s.mem (s.pc.toNat + 1)), s.setPc (s.pc + 2))

/-- A word stored at pc, high byte first, where the next fetch reads it; a pc from which no fetch succeeds has no such
place, and the state is then unchanged (log 20). -/
def State.placeWord (s : State) (w : Word) : State :=
  if s.pc.toNat + 1 > 4095 then s
  else s.setMem (Memory.writeBytes s.mem s.pc.toNat [wordHi w, wordLo w])

end Sys2Proof.Machine
end

