-- ==== Sys2Proof/Machine/Operands.lean ====
section
/-! DEFINITION. The operand forms: an immediate address, a register used as a digit or key index, decimal digits, and
the write of a result with its flag (spec/30_encoding.md R41, spec/42_alu.md R66). -/

namespace Sys2Proof.Machine

/-- zext_16(nnn) (R41). -/
def addrWord (nnn : Addr) : Word := BitVec.ofNat 16 nnn.toNat

/-- V0 + nnn, at most 0x10FE, not masked (R64). -/
def offsetTarget (v0 : Byte) (nnn : Addr) : Word := BitVec.ofNat 16 (v0.toNat + nnn.toNat)

/-- The register as an index into 16 things; none where it is above 15 (R81, R86, R87). -/
def nibbleIndex (b : Byte) : Option (Fin 16) := if h : b.toNat < 16 then some ⟨b.toNat, h⟩ else none

/-- The address of the glyph of digit d (R29, R81). -/
def glyphAddr (d : Fin 16) : Word := BitVec.ofNat 16 (Config.fontBase + Config.glyphBytes * d.val)

/-- I + V[x] on unbounded integers; none where it exceeds 0xFFFF (R80). -/
def indexSum (i : Word) (b : Byte) : Option Word :=
  if i.toNat + b.toNat > 0xFFFF then none else some (BitVec.ofNat 16 (i.toNat + b.toNat))

/-- The hundreds, tens and ones digits of a byte (R82). -/
def decimalDigits (b : Byte) : List Byte :=
  [BitVec.ofNat 8 (b.toNat / 100), BitVec.ofNat 8 (b.toNat / 10 % 10), BitVec.ofNat 8 (b.toNat % 10)]

/-- The result to V[x] first and the flag to VF second, so that the flag stays where x = 15 (R66). -/
def State.setResultAndFlag (s : State) (x : Reg) (result flag : Byte) : State := (s.setV x result).setV 15 flag

end Sys2Proof.Machine
end

