-- ==== Sys2Proof/Machine/Alu.lean ====
section
/-! DEFINITION. The meanings of the register, arithmetic and random instructions (spec/42_alu.md). Byte arithmetic wraps
mod 256 (R65). -/

namespace Sys2Proof.Machine

/-- 6xkk (R67). -/
def execLdImm (x : Reg) (kk : Byte) (s : State) : Host.Outcome State Fault Refusal := .next (s.setV x kk)

/-- 7xkk: no flag (R68). -/
def execAddImm (x : Reg) (kk : Byte) (s : State) : Host.Outcome State Fault Refusal :=
  .next (s.setV x (s.getV x + kk))

/-- 8xy0 (R69). -/
def execLdReg (x y : Reg) (s : State) : Host.Outcome State Fault Refusal := .next (s.setV x (s.getV y))

/-- 8xy1: no flag (R70). -/
def execOrReg (x y : Reg) (s : State) : Host.Outcome State Fault Refusal := .next (s.setV x (s.getV x ||| s.getV y))

/-- 8xy2: no flag (R71). -/
def execAndReg (x y : Reg) (s : State) : Host.Outcome State Fault Refusal := .next (s.setV x (s.getV x &&& s.getV y))

/-- 8xy3: no flag (R72). -/
def execXorReg (x y : Reg) (s : State) : Host.Outcome State Fault Refusal := .next (s.setV x (s.getV x ^^^ s.getV y))

/-- 8xy4 (R73). -/
def execAddReg (x y : Reg) (s : State) : Host.Outcome State Fault Refusal :=
  .next (s.setResultAndFlag x (s.getV x + s.getV y) (flagCarry (s.getV x) (s.getV y)))

/-- 8xy5: strict comparison (R74). -/
def execSub (x y : Reg) (s : State) : Host.Outcome State Fault Refusal :=
  .next (s.setResultAndFlag x (s.getV x - s.getV y) (flagGreater (s.getV x) (s.getV y)))

/-- 8xy6: y is not used (R46, R75). -/
def execShr (x _y : Reg) (s : State) : Host.Outcome State Fault Refusal :=
  .next (s.setResultAndFlag x (s.getV x >>> 1) (flagLowBit (s.getV x)))

/-- 8xy7: the operands of 8xy5 exchanged (R76). -/
def execSubn (x y : Reg) (s : State) : Host.Outcome State Fault Refusal :=
  .next (s.setResultAndFlag x (s.getV y - s.getV x) (flagGreater (s.getV y) (s.getV x)))

/-- 8xyE: y is not used (R46, R77). -/
def execShl (x _y : Reg) (s : State) : Host.Outcome State Fault Refusal :=
  .next (s.setResultAndFlag x (s.getV x <<< 1) (flagHighBit (s.getV x)))

/-- Cxkk: exactly one byte is drawn, also when kk = 0 (R78). -/
def execRnd (x : Reg) (kk : Byte) (s : State) : Host.Outcome State Fault Refusal :=
  .next (s.afterDraw.setV x (s.rand &&& kk))

end Sys2Proof.Machine
end

