-- ==== Sys2Proof/Machine/Display.lean ====
section
/-! DEFINITION. The meanings of the display instructions 00E0 and Dxyn (spec/40_display.md). -/

namespace Sys2Proof.Machine

/-- 00E0 (R51). -/
def execCls (s : State) : Host.Outcome State Fault Refusal := .next (s.setFb Framebuffer.blank)

/-- Dxyn: both coordinates are read before VF is written, and the sprite before any cell changes (R52). -/
def execDrw (x y : Reg) (n : Fin 16) (s : State) : Host.Outcome State Fault Refusal :=
  s.orFatal .outOfBounds <|
    (s.readRange s.index.toNat (s.index.toNat + n.val)).map fun sprite =>
      let d := s.fb.drawSprite (s.getV x) (s.getV y) sprite
      (s.setFb d.fb).setV 15 (flag d.collision)

end Sys2Proof.Machine
end

