-- ==== Sys2Proof/Machine/Flow.lean ====
section
/-! DEFINITION. The meanings of the control transfers and the register skips (spec/41_flow.md). Each runs after the
fetch, so pc is the instruction's address plus 2 (R14). -/

namespace Sys2Proof.Machine

/-- 00EE (R57). -/
def execRet (s : State) : Host.Outcome State Fault Refusal :=
  s.orFatal .stackUnderflow (s.pop.map fun p => p.2.setPc p.1)

/-- 1nnn (R58). -/
def execJp (nnn : Addr) (s : State) : Host.Outcome State Fault Refusal := .next (s.setPc (addrWord nnn))

/-- 2nnn: the address of the next instruction is pushed (R59). -/
def execCall (nnn : Addr) (s : State) : Host.Outcome State Fault Refusal :=
  s.orFatal .stackOverflow ((s.push s.pc).map fun t => t.setPc (addrWord nnn))

/-- 3xkk (R60). -/
def execSeImm (x : Reg) (kk : Byte) (s : State) : Host.Outcome State Fault Refusal :=
  .next (s.skipIf (decide (s.getV x = kk)))

/-- 4xkk (R61). -/
def execSneImm (x : Reg) (kk : Byte) (s : State) : Host.Outcome State Fault Refusal :=
  .next (s.skipIf (decide (s.getV x ≠ kk)))

/-- 5xy0 (R62). -/
def execSeReg (x y : Reg) (s : State) : Host.Outcome State Fault Refusal :=
  .next (s.skipIf (decide (s.getV x = s.getV y)))

/-- 9xy0 (R63). -/
def execSneReg (x y : Reg) (s : State) : Host.Outcome State Fault Refusal :=
  .next (s.skipIf (decide (s.getV x ≠ s.getV y)))

/-- Bnnn: always V0 (R64). -/
def execJpV0 (nnn : Addr) (s : State) : Host.Outcome State Fault Refusal :=
  .next (s.setPc (offsetTarget (s.getV 0) nnn))

end Sys2Proof.Machine
end

