-- ==== Sys2Proof/Machine/IndexMemory.lean ====
section
/-! DEFINITION. The meanings of the index-register and memory instructions (spec/43_index_memory.md). -/

namespace Sys2Proof.Machine

/-- Annn (R79). -/
def execLdI (nnn : Addr) (s : State) : Host.Outcome State Fault Refusal := .next (s.setIndex (addrWord nnn))

/-- Fx1E: no flag, fatal past 0xFFFF (R80). -/
def execAddIVx (x : Reg) (s : State) : Host.Outcome State Fault Refusal :=
  s.orFatal .outOfBounds ((indexSum s.index (s.getV x)).map fun a => s.setIndex a)

/-- Fx29: fatal for a digit above 15 (R81). -/
def execLdFVx (x : Reg) (s : State) : Host.Outcome State Fault Refusal :=
  s.orFatal .outOfBounds ((nibbleIndex (s.getV x)).map fun d => s.setIndex (glyphAddr d))

/-- Fx33 (R82). -/
def execLdBVx (x : Reg) (s : State) : Host.Outcome State Fault Refusal :=
  s.orFatal .outOfBounds (s.writeRange s.index.toNat (decimalDigits (s.getV x)))

/-- Fx55: I is not changed (R83). -/
def execLdMemVx (x : Reg) (s : State) : Host.Outcome State Fault Refusal :=
  s.orFatal .outOfBounds (s.writeRange s.index.toNat (s.dump x))

/-- Fx65: I is not changed (R84). -/
def execLdVxMem (x : Reg) (s : State) : Host.Outcome State Fault Refusal :=
  s.orFatal .outOfBounds <|
    (s.readRange s.index.toNat (s.index.toNat + x.val + 1)).map fun bytes => s.setVs (loadRegs s.v 0 bytes)

end Sys2Proof.Machine
end

