-- ==== Sys2Proof/Machine/InputTimers.lean ====
section
/-! DEFINITION. The meanings of the key and timer instructions (spec/44_input_timers.md). The cycle's timer decrement
follows them (R47, R117). -/

namespace Sys2Proof.Machine

/-- Ex9E: fatal for a key above 15 (R86). -/
def execSkp (x : Reg) (s : State) : Host.Outcome State Fault Refusal :=
  s.orFatal .outOfBounds ((nibbleIndex (s.getV x)).map fun k => s.skipIf s.keys[k])

/-- ExA1: fatal for a key above 15 (R87). -/
def execSknp (x : Reg) (s : State) : Host.Outcome State Fault Refusal :=
  s.orFatal .outOfBounds ((nibbleIndex (s.getV x)).map fun k => s.skipIf (!s.keys[k]))

/-- Fx07: the value before this cycle's decrement (R88). -/
def execLdVxDt (x : Reg) (s : State) : Host.Outcome State Fault Refusal := .next (s.setV x s.dt)

/-- Fx0A: the lowest pressed key, or back to this instruction (R89). -/
def execLdVxK (x : Reg) (s : State) : Host.Outcome State Fault Refusal :=
  match s.lowestPressed with
  | some k => .next (s.setV x (BitVec.ofNat 8 k.val))
  | none => .next s.retreat

/-- Fx15 (R90). -/
def execLdDtVx (x : Reg) (s : State) : Host.Outcome State Fault Refusal := .next (s.setDt (s.getV x))

/-- Fx18 (R91). -/
def execLdStVx (x : Reg) (s : State) : Host.Outcome State Fault Refusal := .next (s.setSt (s.getV x))

end Sys2Proof.Machine
end

