-- ==== Sys2Proof/Machine/Cycle.lean ====
section
/-! DEFINITION. One cycle: fetch, decode, execute or report, then the timers (spec/30_encoding.md R47). -/

namespace Sys2Proof.Machine

/-- The end of a cycle: the timers are decremented, unless the instruction raised a fatal error (R47, R94, R102). -/
def finishCycle : Host.Outcome State Fault Refusal → Host.Outcome State Fault Refusal
  | .next t =>
    match t.status with
    | .running => .next t.tickTimers
    | .halted _ => .next t
  | .fault r => .fault r
  | .refused r => .refused r

/-- Execute(Decode(w)) after the fetch of w; an unknown word is reported and the cycle goes on (R47, R96). -/
def execWord (w : Word) (s : State) : Host.Outcome State Fault Refusal :=
  match decodeWord w with
  | .ok i => exec i s
  | .error _ => .next (s.reportUnknown w)

/-- The cycle of a running machine (R47). A failed fetch leaves pc unchanged (R43). -/
def runCycle (s : State) : Host.Outcome State Fault Refusal :=
  match s.closeLoad.fetch with
  | none => .next (s.closeLoad.raiseFatal .outOfBounds)
  | some (w, t) => finishCycle (execWord w t)

/-- cycle(): "a halted machine takes no further step" (R47, R94; log 10). -/
def cycle (s : State) : Host.Outcome State Fault Refusal :=
  match s.status with
  | .running => runCycle s
  | .halted kind => .fault (.halted kind)

end Sys2Proof.Machine
end

