-- ==== Sys2Proof/Machine/Step.lean ====
section
/-! DEFINITION. The step of the machine: one invocation of cycle() (spec/00_scope.md R9). -/

namespace Sys2Proof.Machine

/-- One step: one cycle (R9, R47). -/
def step (s : State) : Host.Outcome State Fault Refusal := cycle s

/-- s with the instruction of spec/opcode_table.json's number w stored where the next fetch reads it: its two bytes at
pc, the high one first (R33, R43). Nothing else changes. -/
def State.withFetchWord (s : State) (nbits w : Nat) : State := s.placeWord (BitVec.ofNat 16 (w % 2 ^ nbits))

end Sys2Proof.Machine
end

