-- ==== Sys2Proof/WellFormed.lean ====
section
/-! DEFINITION. The checks on what is given to the machine from outside. An instruction needs none beyond its types: each
operand field of `Instr` is a Fin or a bit vector of exactly the field's width (spec/30_encoding.md R41, log 21), which
`Instr.operandsFit` writes down. A program image has a bounded length (spec/70_reset_and_hazards.md R112). The check on
the startup parameters, `Startup.wf`, stands beside them in Machine/State.lean. -/

namespace Sys2Proof

/-- The operands of an instruction, each with the width in bits of its field in spec/opcode_table.json (R41, R42). -/
def Instr.operands : Instr → List (Nat × Nat)
  | .cls | .ret => []
  | .jp nnn | .call nnn | .ldI nnn | .jpV0 nnn => [(nnn.toNat, 12)]
  | .seImm x kk | .sneImm x kk | .ldImm x kk | .addImm x kk | .rnd x kk => [(x.val, 4), (kk.toNat, 8)]
  | .seReg x y | .sneReg x y | .ldReg x y | .orReg x y | .andReg x y | .xorReg x y => [(x.val, 4), (y.val, 4)]
  | .addReg x y | .sub x y | .shr x y | .subn x y | .shl x y => [(x.val, 4), (y.val, 4)]
  | .drw x y n => [(x.val, 4), (y.val, 4), (n.val, 4)]
  | .skp x | .sknp x | .ldVxDt x | .ldVxK x | .ldDtVx x | .ldStVx x => [(x.val, 4)]
  | .addIVx x | .ldFVx x | .ldBVx x | .ldMemVx x | .ldVxMem x => [(x.val, 4)]

/-- Operands that fit their fields. -/
def operandsFit (ops : List (Nat × Nat)) : Bool := ops.all fun o => o.1 < 2 ^ o.2

/-- A well-formed instruction: every operand fits its field. The types of `Instr` make it true of every term. -/
def Instr.wf (i : Instr) : Bool := operandsFit i.operands

/-- A program image the machine accepts: at most 3584 bytes (R112). -/
def imageFits (image : List Byte) : Bool := image.length ≤ Config.maxImage

end Sys2Proof
end

