-- ==== Sys2Proof/Machine/Interface.lean ====
section
/-! DEFINITION. The block's ports (spec/00_scope.md R8): the inputs load, cycle and key_set, and the outputs snapshot,
sound timer, diag and fatal. The random bytes are `Config.randByte` (log 9). -/

namespace Sys2Proof.Machine

/-- load(image): the bytes verbatim from 0x200, once and before the first cycle; an image of more than 3584 bytes halts
the machine before any cycle runs (R112). Any other use is refused (D23; log 12). -/
def load (image : List Byte) (s : State) : Host.Outcome State Fault Refusal :=
  if s.loadOpen = true ∧ s.status = .running then
    if imageFits image then .next (s.closeLoad.setMem (Memory.writeBytes s.mem Config.programOrigin image))
    else .next (s.closeLoad.raiseFatal .loadSize)
  else .refused .loadNotAllowed

/-- key_set(k, pressed), by the input collaborator between two cycles (R105). -/
def keySet (k : Fin 16) (pressed : Bool) (s : State) : State := s.setKeys (s.keys.set k pressed)

/-- What the outside can do to the block (R8). -/
inductive Input where
  | load (image : List Byte)
  | cycle
  | keySet (k : Fin 16) (pressed : Bool)
deriving DecidableEq, Repr

/-- The block's answer to one input (R8). -/
def react : Input → State → Host.Outcome State Fault Refusal
  | .load image, s => load image s
  | .cycle, s => step s
  | .keySet k pressed, s => .next (keySet k pressed s)

/-- The block's answer to a sequence of inputs, up to the first fault or refusal: any key changes fall between the
cycles (R105, R120; log 8). -/
def reactAll : List Input → State → Host.Outcome State Fault Refusal
  | [], s => .next s
  | e :: es, s =>
    match react e s with
    | .next t => reactAll es t
    | .fault r => .fault r
    | .refused r => .refused r

/-- A framebuffer cell as the renderer sees it: all-one or all-zero bits (R21, R104). -/
def pixel (on : Bool) : BitVec 32 := if on then 0xFFFFFFFF else 0

/-- snapshot(): the 2048 cells, row-major, element r * 64 + c for fb[r][c] (R104). -/
def State.snapshot (s : State) : List (BitVec 32) := s.fb.toList.flatMap fun row => row.toList.map pixel

/-- The sound timer value for the audio collaborator (R106). -/
def State.soundOut (s : State) : Byte := s.st

/-- The reports of unknown words (R96). -/
def State.diagOut (s : State) : List UnknownReport := s.diag

/-- fatal(kind): the fatal-error outcome, none while running (R94). -/
def State.fatalOut (s : State) : Option FatalKind :=
  match s.status with
  | .running => none
  | .halted kind => some kind

end Sys2Proof.Machine
end

