-- ==== Sys2Proof/Safety.lean ====
section
/-! DEFINITION. The terms that claims use: the invariant of a run, what two states agree on, what a fatal error is, the
word at pc, the cells a sprite covers, and a program's completion. -/

namespace Sys2Proof.Machine

/-- The invariant of every run. Memory is canonical; pc is at most 0x10FE (spec/10_state.md R16); every address on the
call stack is at most 0x1002, the bound that R19 gives for a pushed pc. -/
def State.Inv (s : State) : Prop :=
  Memory.wf s.mem = true ∧ s.pc.toNat ≤ 0x10FE ∧
    ∀ j : Fin 16, j.val < s.sp.val → s.stack[j].toNat ≤ 0x1002

/-- The fields of the state, by name. -/
inductive Field where
  | mem | v | pc | index | stack | sp | dt | st | fb | keys | status | diag | randDraws | loadOpen
deriving DecidableEq, Repr

/-- t has the value of s in every field that is not listed. Memory is compared byte by byte. -/
def State.AgreeExcept (fields : List Field) (s t : State) : Prop :=
  (Field.mem ∉ fields → ∀ a, Memory.read t.mem a = Memory.read s.mem a) ∧
  (Field.v ∉ fields → ∀ r : Reg, t.getV r = s.getV r) ∧
  (Field.pc ∉ fields → t.pc = s.pc) ∧
  (Field.index ∉ fields → t.index = s.index) ∧
  (Field.stack ∉ fields → t.stack = s.stack) ∧
  (Field.sp ∉ fields → t.sp = s.sp) ∧
  (Field.dt ∉ fields → t.dt = s.dt) ∧
  (Field.st ∉ fields → t.st = s.st) ∧
  (Field.fb ∉ fields → t.fb = s.fb) ∧
  (Field.keys ∉ fields → t.keys = s.keys) ∧
  (Field.status ∉ fields → t.status = s.status) ∧
  (Field.diag ∉ fields → t.diag = s.diag) ∧
  (Field.randDraws ∉ fields → t.randDraws = s.randDraws) ∧
  (Field.loadOpen ∉ fields → t.loadOpen = s.loadOpen)

/-- Every register outside the list is unchanged. -/
def State.RegsExcept (regs : List Reg) (s t : State) : Prop := ∀ r : Reg, r ∉ regs → t.getV r = s.getV r

/-- Every byte of memory outside the n bytes from a is unchanged. -/
def State.BytesExcept (a n : Nat) (s t : State) : Prop :=
  ∀ b, (b < a ∨ a + n ≤ b) → Memory.read t.mem b = Memory.read s.mem b

/-- The outcome is a fatal error of a kind. Only the status is said: no claim rests on the rest of the state at a halt
(spec/60_exceptions.md R94, D16). -/
def HaltsWith (kind : FatalKind) (o : Host.Outcome State Fault Refusal) : Prop :=
  ∃ t, o = .next t ∧ t.status = .halted kind

/-- A running machine whose next fetch reads the word w (R33, R43). -/
def State.AtWord (w : Word) (s : State) : Prop :=
  s.status = .running ∧ s.pc.toNat + 1 ≤ 4095 ∧
    wordOfBytes (Memory.read s.mem s.pc.toNat) (Memory.read s.mem (s.pc.toNat + 1)) = w

/-- Some set bit of the sprite, drawn from column px and row py with wrap-around, falls on cell (r, c)
(spec/40_display.md R52). -/
def Covers (px py : Byte) (sprite : List Byte) (r : Fin 32) (c : Fin 64) : Prop :=
  ∃ row col, row < sprite.length ∧ col < 8 ∧ spriteBit (sprite.getD row 0) col = true ∧
    (py.toNat + row) % 32 = r.val ∧ (px.toNat + col) % 64 = c.val

/-- fb[r][c]. -/
def State.cellAt (s : State) (r : Fin 32) (c : Fin 64) : Bool := s.fb[r][c]

/-- A program is complete: the next word is a 1nnn that jumps to its own address (spec/70_reset_and_hazards.md R115,
the spec's decision D26). -/
def State.Complete (s : State) : Prop :=
  s.status = .running ∧ s.pc.toNat + 1 ≤ 4095 ∧
    (Memory.read s.mem s.pc.toNat).toNat = 0x10 + s.pc.toNat / 256 ∧
    (Memory.read s.mem (s.pc.toNat + 1)).toNat = s.pc.toNat % 256

/-- The number n, as a word, decodes to the instruction i. -/
def DecodesAs (n : Nat) (i : Instr) : Prop := decodeWord (BitVec.ofNat 16 n) = .ok i

/-- One cycle executed the word w in s and left the running machine in t. -/
def Ran (s : State) (w : Word) (t : State) : Prop := s.AtWord w ∧ step s = .next t ∧ t.status = .running

/-- The next k cycles all complete, and none of them executes Fx15. -/
def DelayUntouched : Nat → State → Prop
  | 0, _ => True
  | k + 1, s => ∃ w t, Ran s w t ∧ (∀ x, decodeWord w ≠ .ok (.ldDtVx x)) ∧ DelayUntouched k t

/-- The instructions that write VF as a flag (spec/10_state.md R11). -/
def setsFlag : Instr → Bool
  | .addReg _ _ | .sub _ _ | .shr _ _ | .subn _ _ | .shl _ _ | .drw _ _ _ => true
  | _ => false

/-- The instructions that name VF as a destination: x = 15 in the W column of the register-use table
(spec/10_state.md section 1). -/
def namesVF : Instr → Bool
  | .ldImm x _ | .addImm x _ | .ldReg x _ | .orReg x _ | .andReg x _ | .xorReg x _ => x = 15
  | .addReg x _ | .sub x _ | .shr x _ | .subn x _ | .shl x _ | .rnd x _ => x = 15
  | .ldVxDt x | .ldVxK x | .ldVxMem x => x = 15
  | _ => false

end Sys2Proof.Machine
end

