-- ==== Sys2Proof/Certificates/Slice0/Obligations.lean ====
section
/-! DEFINITION. The statements for the provers. An instruction runs after its fetch, so in the statements about `exec` the
state's pc is the instruction's address plus 2 (spec/10_state.md R14). A statement about a fatal error says only that the
machine is halted and with which kind (spec/60_exceptions.md R94, D16). -/

open Sys2Proof Sys2Proof.Machine

/-! ## Startup -/

/-- The table of 10_state.md section 10 (R26) for every value of the open parameters of R7, before the load. The empty
stack is the spec's decision D5. -/
def Obligations.ConstructedStateHasStartupValues : Prop :=
  ∀ p : Startup, p.wf = true →
    let s := State.construct p
    s.pc = 0x200 ∧ s.index = 0 ∧ s.sp = 0 ∧ s.v = p.initV ∧ s.dt = p.initDt ∧ s.st = p.initSt ∧ s.fb = p.initFb ∧
    s.keys = p.initKeys ∧ s.status = .running ∧ s.diag = [] ∧
    (∀ a, a < 80 → Memory.read s.mem (0x50 + a) = p.fontTable.getD a 0) ∧
    (∀ a, a < 0x50 ∨ 0xA0 ≤ a → Memory.read s.mem a = Memory.read p.initMem a)

/-- The reset state has the startup values of pc, I, the stack pointer, the status and the reports in 10_state.md section
10 (R26), and it meets the invariant. The empty stack is the spec's decision D5 (log 19). -/
def Obligations.ResetMeetsInvariant : Prop :=
  State.reset.Inv ∧ State.reset.pc = 0x200 ∧ State.reset.index = 0 ∧ State.reset.sp = 0 ∧
    State.reset.status = .running ∧ State.reset.diag = []

/-- 70_reset_and_hazards.md R112. That any other use of load is refused is the spec's decision D23 (log 12). -/
def Obligations.LoadWritesImageOrHalts : Prop :=
  ∀ (image : List Byte) (s : State),
    (s.loadOpen = true → s.status = .running → image.length ≤ 3584 →
      ∃ t, load image s = .next t ∧ (∀ j, j < image.length → Memory.read t.mem (0x200 + j) = image.getD j 0) ∧
        State.BytesExcept 0x200 image.length s t ∧ State.AgreeExcept [.mem, .loadOpen] s t ∧ t.loadOpen = false) ∧
    (s.loadOpen = true → s.status = .running → 3584 < image.length → HaltsWith .loadSize (load image s)) ∧
    (s.loadOpen = false ∨ s.status ≠ .running → load image s = .refused .loadNotAllowed)

/-! ## Invariants -/

/-- Every step keeps memory canonical, pc at most 0x10FE and every return address on the stack at most 0x1002
(10_state.md R16, R19; 20_memory.md R31). -/
def Obligations.StepKeepsInvariant : Prop :=
  ∀ s t : State, s.Inv → step s = .next t → t.Inv

/-- The invariant holds after every sequence of loads, cycles and key changes, from every startup (00_scope.md R7, R8). -/
def Obligations.EveryRunKeepsInvariant : Prop :=
  ∀ (p : Startup) (es : List Input) (t : State),
    p.wf = true → reactAll es (State.construct p) = .next t → t.Inv

/-! ## Encoding -/

/-- Decoding the bytes of an instruction gives it back with every operand, and the bytes after it. -/
def Obligations.DecodeOfEncodeIsIdentity : Prop :=
  ∀ (i : Instr) (rest : List Byte), decode (encode i ++ rest) = .ok (i, rest)

/-- A word that decodes to an instruction is that instruction's word. -/
def Obligations.EncodeOfDecodeIsIdentity : Prop :=
  ∀ (w : Word) (i : Instr), decodeWord w = .ok i → encodeWord i = w

/-- The unknown words are exactly those that 30_encoding.md R48 lists. R48 marks the list as derived from R44, whose exact
masks are the spec's decision D11. -/
def Obligations.UnknownWordsAreExactlyTheListed : Prop :=
  ∀ w : Word, decodeWord w = .error (.unknown w) ↔
    (bits w 15 12 = 0 ∧ w ≠ 0x00E0 ∧ w ≠ 0x00EE) ∨
    (bits w 15 12 = 5 ∧ bits w 3 0 ≠ 0) ∨
    (bits w 15 12 = 8 ∧ bits w 3 0 ∈ [0x8, 0x9, 0xA, 0xB, 0xC, 0xD, 0xF]) ∨
    (bits w 15 12 = 9 ∧ bits w 3 0 ≠ 0) ∨
    (bits w 15 12 = 0xE ∧ bits w 7 0 ∉ [0x9E, 0xA1]) ∨
    (bits w 15 12 = 0xF ∧ bits w 7 0 ∉ [0x07, 0x0A, 0x15, 0x18, 0x1E, 0x29, 0x33, 0x55, 0x65])

/-- Words written out from the patterns of 30_encoding.md R45, one for each format and family. -/
def Obligations.SampleWordsDecode : Prop :=
  DecodesAs 0x00E0 .cls ∧ DecodesAs 0x1234 (.jp 0x234) ∧ DecodesAs 0x3342 (.seImm 3 0x42) ∧
  DecodesAs 0x8124 (.addReg 1 2) ∧ DecodesAs 0x8456 (.shr 4 5) ∧ DecodesAs 0xD125 (.drw 1 2 5) ∧
  DecodesAs 0xE19E (.skp 1) ∧ DecodesAs 0xF433 (.ldBVx 4)

/-! ## The cycle -/

/-- 30_encoding.md R47: the step of a running machine whose next word decodes to i is exec of i, with pc already moved
past the word and the load window closed (log 12). The timers are decremented after it, unless it halted the machine. -/
def Obligations.StepRunsDecodedInstruction : Prop :=
  ∀ (s : State) (w : Word) (i : Instr) (t : State), s.AtWord w → decodeWord w = .ok i →
    exec i (s.closeLoad.setPc (s.pc + 2)) = .next t →
    (t.status = .running → step s = .next t.tickTimers) ∧
    (∀ kind, t.status = .halted kind → step s = .next t)

/-- 30_encoding.md R43: a fetch from pc = 4095 or above halts the machine. That it is fatal is the spec's decision D10. -/
def Obligations.FetchPastTheEndHalts : Prop :=
  ∀ s : State, s.status = .running → 4095 ≤ s.pc.toNat → HaltsWith .outOfBounds (step s)

/-- 60_exceptions.md R94 and 70_reset_and_hazards.md R115: a running machine can always take another cycle, and a halted one
takes none. That a halted machine's step answers a fault is the model's choice (log 10). -/
def Obligations.StepStopsExactlyWhenHalted : Prop :=
  ∀ s : State, (s.status = .running ↔ ∃ t, step s = .next t) ∧
    (∀ kind, s.status = .halted kind → step s = .fault (.halted kind))

/-- 60_exceptions.md R96: an unknown word is reported with its address and skipped, and the cycle goes on to the timers. The
report's content is the spec's decision D17 (log 15). -/
def Obligations.UnknownWordIsReportedAndSkipped : Prop :=
  ∀ (s : State) (w : Word), s.AtWord w → decodeWord w = .error (.unknown w) →
    ∃ t, step s = .next t ∧ t.pc = s.pc + 2 ∧ t.diag = s.diag ++ [{ word := w, addr := s.pc }] ∧
      t.dt.toNat = s.dt.toNat - 1 ∧ t.st.toNat = s.st.toNat - 1 ∧
      State.AgreeExcept [.pc, .diag, .dt, .st, .loadOpen] s t

/-- 60_exceptions.md R102: every cycle that is not fatal decrements each timer, down to 0 (truncated subtraction), whatever
the instruction, but for the timer that Fx15 or Fx18 has just set. The rate is the spec's decision D22. -/
def Obligations.TimersCountDownEveryCycle : Prop :=
  ∀ (s : State) (w : Word) (t : State), Ran s w t →
    ((∀ x, decodeWord w ≠ .ok (.ldDtVx x)) → t.dt.toNat = s.dt.toNat - 1) ∧
    ((∀ x, decodeWord w ≠ .ok (.ldStVx x)) → t.st.toNat = s.st.toNat - 1)

/-- 70_reset_and_hazards.md R117: after k cycles without an Fx15 the delay timer has dropped by k, down to 0. -/
def Obligations.DelayTimerAfterManyCycles : Prop :=
  ∀ (k : Nat) (s : State), DelayUntouched k s →
    ∃ t, Host.Core.run Sys2Proof.core k s = .next t ∧ t.dt.toNat = s.dt.toNat - k

/-- 10_state.md section 2 (R15): how each instruction moves pc, over whole cycles. A jump target is its address, a return
takes the top of the stack (41_flow.md R57 to R59), a skip adds 2 or nothing, Fx0A goes back by 2 or not, and everything
else only fetches. That the target of Bnnn is the sum not reduced is the spec's decision D8 (log 19). -/
def Obligations.PcChangesOnlyAsListed : Prop :=
  ∀ (s : State) (w : Word) (t : State), Ran s w t →
    match decodeWord w with
    | .ok .ret => ∀ j : Fin 16, s.sp.val = j.val + 1 → t.pc = s.stack[j]
    | .ok (.jp nnn) | .ok (.call nnn) => t.pc.toNat = nnn.toNat
    | .ok (.jpV0 nnn) => t.pc.toNat = (s.getV 0).toNat + nnn.toNat
    | .ok (.seImm _ _) | .ok (.sneImm _ _) | .ok (.seReg _ _) | .ok (.sneReg _ _) | .ok (.skp _) | .ok (.sknp _) =>
      t.pc = s.pc + 2 ∨ t.pc = s.pc + 2 + 2
    | .ok (.ldVxK _) => t.pc = s.pc + 2 ∨ t.pc = s.pc + 2 - 2
    | _ => t.pc = s.pc + 2

/-- 10_state.md section 6 (R22): over whole cycles, only 00E0 and Dxyn write the framebuffer. -/
def Obligations.FramebufferWrittenOnlyByDisplay : Prop :=
  ∀ (s : State) (w : Word) (t : State), Ran s w t →
    decodeWord w ≠ .ok .cls → (∀ x y n, decodeWord w ≠ .ok (.drw x y n)) → t.fb = s.fb

/-- 20_memory.md section 3 (R35): over whole cycles, only Fx33 and Fx55 write memory. -/
def Obligations.MemoryWrittenOnlyByStores : Prop :=
  ∀ (s : State) (w : Word) (t : State), Ran s w t →
    (∀ x, decodeWord w ≠ .ok (.ldBVx x)) → (∀ x, decodeWord w ≠ .ok (.ldMemVx x)) → t.mem = s.mem

/-- 10_state.md section 3 (R17): over whole cycles, only Annn, Fx1E and Fx29 write I. -/
def Obligations.IndexWrittenOnlyByThree : Prop :=
  ∀ (s : State) (w : Word) (t : State), Ran s w t →
    (∀ nnn, decodeWord w ≠ .ok (.ldI nnn)) → (∀ x, decodeWord w ≠ .ok (.addIVx x)) →
    (∀ x, decodeWord w ≠ .ok (.ldFVx x)) → t.index = s.index

/-- 10_state.md section 4 (R19): over whole cycles, only 2nnn and 00EE change the call stack. -/
def Obligations.StackChangedOnlyByCallAndReturn : Prop :=
  ∀ (s : State) (w : Word) (t : State), Ran s w t →
    decodeWord w ≠ .ok .ret → (∀ nnn, decodeWord w ≠ .ok (.call nnn)) → t.stack = s.stack ∧ t.sp = s.sp

/-- 10_state.md section 7 (R23) and 60_exceptions.md section 6 (R105): the core only reads the key state. -/
def Obligations.CoreNeverWritesKeys : Prop :=
  ∀ s t : State, step s = .next t → t.keys = s.keys

/-- 10_state.md section 1 (R11, whose second half the spec marks as derived): the six flag instructions leave 0 or 1 in VF,
and no other instruction changes VF unless it names it as a destination (or loads it by FF65). -/
def Obligations.VFWrittenOnlyAsFlagOrDestination : Prop :=
  ∀ (s : State) (w : Word) (i : Instr) (t : State), Ran s w t → decodeWord w = .ok i →
    (setsFlag i = true → t.getV 15 = 0 ∨ t.getV 15 = 1) ∧
    (setsFlag i = false → namesVF i = false → t.getV 15 = s.getV 15)

/-- 42_alu.md R78, 60_exceptions.md R107 (D21): a cycle draws one random byte if it executes Cxkk, and none otherwise. -/
def Obligations.OneDrawForEachRandomInstruction : Prop :=
  ∀ (s : State) (w : Word) (t : State), Ran s w t →
    ((∃ x kk, decodeWord w = .ok (.rnd x kk)) → t.randDraws = s.randDraws + 1) ∧
    ((∀ x kk, decodeWord w ≠ .ok (.rnd x kk)) → t.randDraws = s.randDraws)

/-! ## Display -/

/-- 40_display.md R51. -/
def Obligations.ClearScreenTurnsEveryCellOff : Prop :=
  DecodesAs 0x00E0 .cls ∧
  ∀ s : State, ∃ t, exec .cls s = .next t ∧ (∀ r c, t.cellAt r c = false) ∧ State.AgreeExcept [.fb] s t

/-- 40_display.md R52, with the reading of R53 (derived there) that no cell is toggled twice: a covered cell is inverted,
any other is unchanged, VF is 1 exactly if a covered cell was on. The fault before any change is the spec's decision D33,
and n = 0 drawing nothing is D31. -/
def Obligations.DrawSpriteInvertsCoveredCells : Prop :=
  (∀ x y n : Fin 16, DecodesAs (0xD000 + x.val * 256 + y.val * 16 + n.val) (.drw x y n)) ∧
  ∀ (x y : Reg) (n : Fin 16) (s : State),
    (s.index.toNat + n.val ≤ 4096 →
      ∃ t, exec (.drw x y n) s = .next t ∧
        (∀ r c, Covers (s.getV x) (s.getV y) (Memory.readBytes s.mem s.index.toNat n.val) r c →
          t.cellAt r c = !s.cellAt r c) ∧
        (∀ r c, ¬Covers (s.getV x) (s.getV y) (Memory.readBytes s.mem s.index.toNat n.val) r c →
          t.cellAt r c = s.cellAt r c) ∧
        (t.getV 15 = 0 ∨ t.getV 15 = 1) ∧
        (t.getV 15 = 1 ↔ ∃ r c,
          Covers (s.getV x) (s.getV y) (Memory.readBytes s.mem s.index.toNat n.val) r c ∧ s.cellAt r c = true) ∧
        State.RegsExcept [15] s t ∧ State.AgreeExcept [.v, .fb] s t) ∧
    (4096 < s.index.toNat + n.val → HaltsWith .outOfBounds (exec (.drw x y n) s))

/-- 40_display.md R54 (the exact property is derived there): the second of two draws of one sprite at one place restores
the framebuffer, and it collides exactly if a covered cell was off before the first. -/
def Obligations.DrawingTwiceRestoresTheScreen : Prop :=
  ∀ (x y : Reg) (n : Fin 16) (s : State), x ≠ 15 → y ≠ 15 → s.index.toNat + n.val ≤ 4096 →
    ∃ t u, exec (.drw x y n) s = .next t ∧ exec (.drw x y n) t = .next u ∧ u.fb = s.fb ∧
      (u.getV 15 = 1 ↔ ∃ r c,
        Covers (s.getV x) (s.getV y) (Memory.readBytes s.mem s.index.toNat n.val) r c ∧ s.cellAt r c = false)

/-! ## Control transfer -/

/-- 41_flow.md R57. -/
def Obligations.ReturnPopsTopAddress : Prop :=
  DecodesAs 0x00EE .ret ∧
  ∀ s : State,
    (∀ j : Fin 16, s.sp.val = j.val + 1 →
      ∃ t, exec .ret s = .next t ∧ t.pc = s.stack[j] ∧ t.sp.val = j.val ∧ State.AgreeExcept [.pc, .sp] s t) ∧
    (s.sp = 0 → HaltsWith .stackUnderflow (exec .ret s)) ∧
    (∀ nnn, s.sp.val < 16 →
      ∃ t u, exec (.call nnn) s = .next t ∧ exec .ret t = .next u ∧ u.pc = s.pc ∧ u.sp = s.sp)

/-- 41_flow.md section 1nnn (R58): a jump to its own address repeats itself, and a target of 0xFFF faults at the next
fetch. That this fetch is fatal is the spec's decision D10. -/
def Obligations.JumpSetsPc : Prop :=
  (∀ nnn : Addr, DecodesAs (0x1000 + nnn.toNat) (.jp nnn)) ∧
  (∀ (nnn : Addr) (s : State),
    ∃ t, exec (.jp nnn) s = .next t ∧ t.pc.toNat = nnn.toNat ∧ State.AgreeExcept [.pc] s t) ∧
  (∀ s : State, s.AtWord (BitVec.ofNat 16 (0x1000 + s.pc.toNat)) → ∃ t, step s = .next t ∧ t.pc = s.pc) ∧
  (∀ s : State, s.status = .running →
    ∃ t, exec (.jp 0xFFF) s = .next t ∧ HaltsWith .outOfBounds (step t))

/-- 41_flow.md section 2nnn (R59). That a faulting call changes nothing else is the spec's decision D33. -/
def Obligations.CallPushesReturnAddress : Prop :=
  (∀ nnn : Addr, DecodesAs (0x2000 + nnn.toNat) (.call nnn)) ∧
  ∀ (nnn : Addr) (s : State),
    (∀ j : Fin 16, s.sp.val = j.val →
      ∃ t, exec (.call nnn) s = .next t ∧ t.stack[j] = s.pc ∧ (∀ k : Fin 16, k ≠ j → t.stack[k] = s.stack[k]) ∧
        t.sp.val = j.val + 1 ∧ t.pc.toNat = nnn.toNat ∧ State.AgreeExcept [.pc, .sp, .stack] s t) ∧
    (s.sp.val = 16 → HaltsWith .stackOverflow (exec (.call nnn) s))

/-- 41_flow.md R60, R61. -/
def Obligations.SkipOnByteComparison : Prop :=
  (∀ (x : Reg) (kk : Byte), DecodesAs (0x3000 + x.val * 256 + kk.toNat) (.seImm x kk) ∧
    DecodesAs (0x4000 + x.val * 256 + kk.toNat) (.sneImm x kk)) ∧
  ∀ (x : Reg) (kk : Byte) (s : State),
    (∃ t, exec (.seImm x kk) s = .next t ∧ (s.getV x = kk → t.pc = s.pc + 2) ∧ (s.getV x ≠ kk → t.pc = s.pc) ∧
      State.AgreeExcept [.pc] s t) ∧
    (∃ t, exec (.sneImm x kk) s = .next t ∧ (s.getV x ≠ kk → t.pc = s.pc + 2) ∧ (s.getV x = kk → t.pc = s.pc) ∧
      State.AgreeExcept [.pc] s t)

/-- 41_flow.md sections 5xy0 and 9xy0 (R62, R63). That a word 5xyn or 9xyn with n not 0 is unknown is the spec's decision
D11. -/
def Obligations.SkipOnRegisterComparison : Prop :=
  (∀ x y : Reg, DecodesAs (0x5000 + x.val * 256 + y.val * 16) (.seReg x y) ∧
    DecodesAs (0x9000 + x.val * 256 + y.val * 16) (.sneReg x y)) ∧
  ∀ (x y : Reg) (s : State),
    (∃ t, exec (.seReg x y) s = .next t ∧ (s.getV x = s.getV y → t.pc = s.pc + 2) ∧
      (s.getV x ≠ s.getV y → t.pc = s.pc) ∧ State.AgreeExcept [.pc] s t) ∧
    (∃ t, exec (.sneReg x y) s = .next t ∧ (s.getV x ≠ s.getV y → t.pc = s.pc + 2) ∧
      (s.getV x = s.getV y → t.pc = s.pc) ∧ State.AgreeExcept [.pc] s t)

/-- 41_flow.md section Bnnn (R64). That the sum is not reduced is the spec's decision D8. -/
def Obligations.JumpAddsV0 : Prop :=
  (∀ nnn : Addr, DecodesAs (0xB000 + nnn.toNat) (.jpV0 nnn)) ∧
  ∀ (nnn : Addr) (s : State), ∃ t, exec (.jpV0 nnn) s = .next t ∧
    t.pc.toNat = (s.getV 0).toNat + nnn.toNat ∧ State.AgreeExcept [.pc] s t

/-! ## Arithmetic and logic -/

/-- 42_alu.md R67. -/
def Obligations.LoadByteWritesRegister : Prop :=
  (∀ (x : Reg) (kk : Byte), DecodesAs (0x6000 + x.val * 256 + kk.toNat) (.ldImm x kk)) ∧
  ∀ (x : Reg) (kk : Byte) (s : State), ∃ t, exec (.ldImm x kk) s = .next t ∧
    t.getV x = kk ∧ State.RegsExcept [x] s t ∧ State.AgreeExcept [.v] s t

/-- 42_alu.md R68. -/
def Obligations.AddByteWrapsWithoutFlag : Prop :=
  (∀ (x : Reg) (kk : Byte), DecodesAs (0x7000 + x.val * 256 + kk.toNat) (.addImm x kk)) ∧
  ∀ (x : Reg) (kk : Byte) (s : State), ∃ t, exec (.addImm x kk) s = .next t ∧
    (t.getV x).toNat = ((s.getV x).toNat + kk.toNat) % 256 ∧ State.RegsExcept [x] s t ∧ State.AgreeExcept [.v] s t

/-- 42_alu.md R69. -/
def Obligations.CopyRegister : Prop :=
  (∀ x y : Reg, DecodesAs (0x8000 + x.val * 256 + y.val * 16) (.ldReg x y)) ∧
  ∀ (x y : Reg) (s : State), ∃ t, exec (.ldReg x y) s = .next t ∧
    t.getV x = s.getV y ∧ State.RegsExcept [x] s t ∧ State.AgreeExcept [.v] s t

/-- 42_alu.md R70, R71, R72: bit by bit, and VF is not reset. -/
def Obligations.BitwiseLogicWithoutFlag : Prop :=
  (∀ x y : Reg, DecodesAs (0x8001 + x.val * 256 + y.val * 16) (.orReg x y) ∧
    DecodesAs (0x8002 + x.val * 256 + y.val * 16) (.andReg x y) ∧
    DecodesAs (0x8003 + x.val * 256 + y.val * 16) (.xorReg x y)) ∧
  ∀ (x y : Reg) (s : State),
    (∃ t, exec (.orReg x y) s = .next t ∧
      (∀ k, (t.getV x).getLsbD k = ((s.getV x).getLsbD k || (s.getV y).getLsbD k)) ∧
      State.RegsExcept [x] s t ∧ State.AgreeExcept [.v] s t) ∧
    (∃ t, exec (.andReg x y) s = .next t ∧
      (∀ k, (t.getV x).getLsbD k = ((s.getV x).getLsbD k && (s.getV y).getLsbD k)) ∧
      State.RegsExcept [x] s t ∧ State.AgreeExcept [.v] s t) ∧
    (∃ t, exec (.xorReg x y) s = .next t ∧
      (∀ k, (t.getV x).getLsbD k = ((s.getV x).getLsbD k ^^ (s.getV y).getLsbD k)) ∧
      State.RegsExcept [x] s t ∧ State.AgreeExcept [.v] s t)

/-- 42_alu.md section 8xy4 (R73). That VF ends as the flag where x = 15 is the spec's decision D12 (R66). -/
def Obligations.AddWithCarry : Prop :=
  (∀ x y : Reg, DecodesAs (0x8004 + x.val * 256 + y.val * 16) (.addReg x y)) ∧
  ∀ (x y : Reg) (s : State), ∃ t, exec (.addReg x y) s = .next t ∧
    (x ≠ 15 → (t.getV x).toNat = ((s.getV x).toNat + (s.getV y).toNat) % 256) ∧
    (t.getV 15 = if 255 < (s.getV x).toNat + (s.getV y).toNat then 1 else 0) ∧
    State.RegsExcept [x, 15] s t ∧ State.AgreeExcept [.v] s t

/-- 42_alu.md sections 8xy5 and 8xy7 (R74, R76): the difference wraps and the comparison is strict, so equal operands give
VF = 0 (90_conflicts.md C2). That VF ends as the flag where x = 15 is the spec's decision D12 (R66). -/
def Obligations.SubtractWithStrictFlag : Prop :=
  (∀ x y : Reg, DecodesAs (0x8005 + x.val * 256 + y.val * 16) (.sub x y) ∧
    DecodesAs (0x8007 + x.val * 256 + y.val * 16) (.subn x y)) ∧
  ∀ (x y : Reg) (s : State),
    (∃ t, exec (.sub x y) s = .next t ∧
      (x ≠ 15 → (t.getV x).toNat = ((s.getV x).toNat + 256 - (s.getV y).toNat) % 256) ∧
      (t.getV 15 = if (s.getV y).toNat < (s.getV x).toNat then 1 else 0) ∧
      State.RegsExcept [x, 15] s t ∧ State.AgreeExcept [.v] s t) ∧
    (∃ t, exec (.subn x y) s = .next t ∧
      (x ≠ 15 → (t.getV x).toNat = ((s.getV y).toNat + 256 - (s.getV x).toNat) % 256) ∧
      (t.getV 15 = if (s.getV x).toNat < (s.getV y).toNat then 1 else 0) ∧
      State.RegsExcept [x, 15] s t ∧ State.AgreeExcept [.v] s t)

/-- 42_alu.md sections 8xy6 and 8xyE (R75, R77): V[x] alone is shifted, whatever y is. That VF ends as the shifted-out bit
where x = 15 is the spec's decision D12 (R66). -/
def Obligations.ShiftByOneWithFlag : Prop :=
  (∀ x y : Reg, DecodesAs (0x8006 + x.val * 256 + y.val * 16) (.shr x y) ∧
    DecodesAs (0x800E + x.val * 256 + y.val * 16) (.shl x y)) ∧
  ∀ (x y : Reg) (s : State),
    (∃ t, exec (.shr x y) s = .next t ∧
      (x ≠ 15 → (t.getV x).toNat = (s.getV x).toNat / 2) ∧ (t.getV 15).toNat = (s.getV x).toNat % 2 ∧
      State.RegsExcept [x, 15] s t ∧ State.AgreeExcept [.v] s t) ∧
    (∃ t, exec (.shl x y) s = .next t ∧
      (x ≠ 15 → (t.getV x).toNat = (s.getV x).toNat * 2 % 256) ∧ (t.getV 15).toNat = (s.getV x).toNat / 128 ∧
      State.RegsExcept [x, 15] s t ∧ State.AgreeExcept [.v] s t)

/-- 42_alu.md section Cxkk (R78, with the spec's decision D21): the next random byte, whatever it is, masked by kk. The
random byte is the free value of log 9. -/
def Obligations.RandomByteIsMasked : Prop :=
  (∀ (x : Reg) (kk : Byte), DecodesAs (0xC000 + x.val * 256 + kk.toNat) (.rnd x kk)) ∧
  ∀ (x : Reg) (kk : Byte) (s : State), ∃ t, exec (.rnd x kk) s = .next t ∧
    t.getV x = Config.randByte s.randDraws &&& kk ∧ (∀ k, kk.getLsbD k = false → (t.getV x).getLsbD k = false) ∧
    t.randDraws = s.randDraws + 1 ∧ State.RegsExcept [x] s t ∧ State.AgreeExcept [.v, .randDraws] s t

/-! ## Index register and memory -/

/-- 43_index_memory.md R79. -/
def Obligations.LoadIndexSetsI : Prop :=
  (∀ nnn : Addr, DecodesAs (0xA000 + nnn.toNat) (.ldI nnn)) ∧
  ∀ (nnn : Addr) (s : State), ∃ t, exec (.ldI nnn) s = .next t ∧ t.index.toNat = nnn.toNat ∧
    State.AgreeExcept [.index] s t

/-- 43_index_memory.md section Fx1E (R80). That a sum past 0xFFFF is fatal is the spec's decision D15. -/
def Obligations.AddRegisterToIndex : Prop :=
  (∀ x : Reg, DecodesAs (0xF01E + x.val * 256) (.addIVx x)) ∧
  ∀ (x : Reg) (s : State),
    (s.index.toNat + (s.getV x).toNat ≤ 0xFFFF → ∃ t, exec (.addIVx x) s = .next t ∧
      t.index.toNat = s.index.toNat + (s.getV x).toNat ∧ State.AgreeExcept [.index] s t) ∧
    (0xFFFF < s.index.toNat + (s.getV x).toNat → HaltsWith .outOfBounds (exec (.addIVx x) s))

/-- 43_index_memory.md section Fx29 (R81). The glyph order is the spec's decision D7, and the fault above 15 is D13. -/
def Obligations.PointIndexToGlyph : Prop :=
  (∀ x : Reg, DecodesAs (0xF029 + x.val * 256) (.ldFVx x)) ∧
  ∀ (x : Reg) (s : State),
    ((s.getV x).toNat ≤ 15 → ∃ t, exec (.ldFVx x) s = .next t ∧
      t.index.toNat = 0x50 + 5 * (s.getV x).toNat ∧ State.AgreeExcept [.index] s t) ∧
    (15 < (s.getV x).toNat → HaltsWith .outOfBounds (exec (.ldFVx x) s))

/-- 43_index_memory.md section Fx33 (R82). The fault before any write is the spec's decision D33. -/
def Obligations.StoreDecimalDigits : Prop :=
  (∀ x : Reg, DecodesAs (0xF033 + x.val * 256) (.ldBVx x)) ∧
  ∀ (x : Reg) (s : State),
    (s.index.toNat + 3 ≤ 4096 → ∃ t, exec (.ldBVx x) s = .next t ∧
      (Memory.read t.mem s.index.toNat).toNat = (s.getV x).toNat / 100 ∧
      (Memory.read t.mem (s.index.toNat + 1)).toNat = (s.getV x).toNat / 10 % 10 ∧
      (Memory.read t.mem (s.index.toNat + 2)).toNat = (s.getV x).toNat % 10 ∧
      State.BytesExcept s.index.toNat 3 s t ∧ State.AgreeExcept [.mem] s t) ∧
    (4096 < s.index.toNat + 3 → HaltsWith .outOfBounds (exec (.ldBVx x) s))

/-- 43_index_memory.md section Fx55 (R83). That I is unchanged is the spec's decision D32, and the fault before any write is
D33. -/
def Obligations.StoreRegisterRange : Prop :=
  (∀ x : Reg, DecodesAs (0xF055 + x.val * 256) (.ldMemVx x)) ∧
  ∀ (x : Reg) (s : State),
    (s.index.toNat + x.val + 1 ≤ 4096 → ∃ t, exec (.ldMemVx x) s = .next t ∧
      (∀ j : Reg, j ≤ x → Memory.read t.mem (s.index.toNat + j.val) = s.getV j) ∧
      State.BytesExcept s.index.toNat (x.val + 1) s t ∧ State.AgreeExcept [.mem] s t) ∧
    (4096 < s.index.toNat + x.val + 1 → HaltsWith .outOfBounds (exec (.ldMemVx x) s))

/-- 43_index_memory.md section Fx65 (R84). That I is unchanged is the spec's decision D32, and the fault before any write is
D33. -/
def Obligations.LoadRegisterRange : Prop :=
  (∀ x : Reg, DecodesAs (0xF065 + x.val * 256) (.ldVxMem x)) ∧
  ∀ (x : Reg) (s : State),
    (s.index.toNat + x.val + 1 ≤ 4096 → ∃ t, exec (.ldVxMem x) s = .next t ∧
      (∀ j : Reg, j ≤ x → t.getV j = Memory.read s.mem (s.index.toNat + j.val)) ∧
      (∀ j : Reg, x < j → t.getV j = s.getV j) ∧ State.AgreeExcept [.v] s t) ∧
    (4096 < s.index.toNat + x.val + 1 → HaltsWith .outOfBounds (exec (.ldVxMem x) s))

/-- 43_index_memory.md R85 (derived there): Fx55 then Fx65 leaves every register as it was. -/
def Obligations.StoreThenLoadKeepsRegisters : Prop :=
  ∀ (x : Reg) (s : State), s.index.toNat + x.val + 1 ≤ 4096 →
    ∃ t u, exec (.ldMemVx x) s = .next t ∧ exec (.ldVxMem x) t = .next u ∧ State.AgreeExcept [.mem] s u

/-- 20_memory.md R38, 70_reset_and_hazards.md R119 (the spec's decision D19): registers stored over the next instruction
are what the next cycle fetches. -/
def Obligations.StoreIsSeenByTheNextFetch : Prop :=
  ∀ (x : Reg) (s : State), s.status = .running → 1 ≤ x.val → s.index = s.pc → s.pc.toNat + x.val + 1 ≤ 4096 →
    ∃ t, exec (.ldMemVx x) s = .next t ∧ t.AtWord (wordOfBytes (s.getV 0) (s.getV 1))

/-! ## Keys and timers -/

/-- 44_input_timers.md sections Ex9E and ExA1 (R86, R87). The fault above 15 is the spec's decision D14. -/
def Obligations.SkipOnKey : Prop :=
  (∀ x : Reg, DecodesAs (0xE09E + x.val * 256) (.skp x) ∧ DecodesAs (0xE0A1 + x.val * 256) (.sknp x)) ∧
  ∀ (x : Reg) (s : State),
    (∀ k : Fin 16, (s.getV x).toNat = k.val →
      (∃ t, exec (.skp x) s = .next t ∧ (s.keys[k] = true → t.pc = s.pc + 2) ∧ (s.keys[k] = false → t.pc = s.pc) ∧
        State.AgreeExcept [.pc] s t) ∧
      (∃ t, exec (.sknp x) s = .next t ∧ (s.keys[k] = false → t.pc = s.pc + 2) ∧ (s.keys[k] = true → t.pc = s.pc) ∧
        State.AgreeExcept [.pc] s t)) ∧
    (15 < (s.getV x).toNat →
      HaltsWith .outOfBounds (exec (.skp x) s) ∧ HaltsWith .outOfBounds (exec (.sknp x) s))

/-- 44_input_timers.md R88: the register takes the value before the cycle's decrement. -/
def Obligations.ReadDelayTimer : Prop :=
  (∀ x : Reg, DecodesAs (0xF007 + x.val * 256) (.ldVxDt x)) ∧
  (∀ (x : Reg) (s : State), ∃ t, exec (.ldVxDt x) s = .next t ∧ t.getV x = s.dt ∧ State.RegsExcept [x] s t ∧
    State.AgreeExcept [.v] s t) ∧
  (∀ (x : Reg) (s : State), s.AtWord (BitVec.ofNat 16 (0xF007 + x.val * 256)) →
    ∃ t, step s = .next t ∧ t.getV x = s.dt ∧ t.dt.toNat = s.dt.toNat - 1)

/-- 44_input_timers.md section Fx0A (R89): the lowest pressed key, or back to the same instruction. -/
def Obligations.WaitForLowestKey : Prop :=
  (∀ x : Reg, DecodesAs (0xF00A + x.val * 256) (.ldVxK x)) ∧
  ∀ (x : Reg) (s : State),
    (∀ k : Fin 16, s.keys[k] = true → (∀ j : Fin 16, j < k → s.keys[j] = false) →
      ∃ t, exec (.ldVxK x) s = .next t ∧ (t.getV x).toNat = k.val ∧ State.RegsExcept [x] s t ∧
        State.AgreeExcept [.v] s t) ∧
    ((∀ k : Fin 16, s.keys[k] = false) →
      ∃ t, exec (.ldVxK x) s = .next t ∧ t.pc = s.pc - 2 ∧ State.AgreeExcept [.pc] s t)

/-- 44_input_timers.md section Fx15 (R90), with the cycle's decrement that R90 marks as derived. -/
def Obligations.SetDelayTimer : Prop :=
  (∀ x : Reg, DecodesAs (0xF015 + x.val * 256) (.ldDtVx x)) ∧
  (∀ (x : Reg) (s : State), ∃ t, exec (.ldDtVx x) s = .next t ∧ t.dt = s.getV x ∧ State.AgreeExcept [.dt] s t) ∧
  (∀ (x : Reg) (s : State), s.AtWord (BitVec.ofNat 16 (0xF015 + x.val * 256)) →
    ∃ t, step s = .next t ∧ t.dt.toNat = (s.getV x).toNat - 1)

/-- 44_input_timers.md section Fx18 (R91): the sound timer is set, the same cycle decrements it (the inference that R90
and R117 mark as derived), and no instruction reads it back. The last clause also compares the fields after a fatal error,
which the model keeps (DEDUCED, log 11) though the spec lets no claim rest on them (D16). -/
def Obligations.SetSoundTimer : Prop :=
  (∀ x : Reg, DecodesAs (0xF018 + x.val * 256) (.ldStVx x)) ∧
  (∀ (x : Reg) (s : State), ∃ t, exec (.ldStVx x) s = .next t ∧ t.st = s.getV x ∧ State.AgreeExcept [.st] s t) ∧
  (∀ (x : Reg) (s : State), s.AtWord (BitVec.ofNat 16 (0xF018 + x.val * 256)) →
    ∃ t, step s = .next t ∧ t.st.toNat = (s.getV x).toNat - 1) ∧
  (∀ (i : Instr) (s : State) (b : Byte),
    ∃ t u, exec i s = .next t ∧ exec i (s.setSt b) = .next u ∧ State.AgreeExcept [.st] t u)

/-! ## Ports and completion -/

/-- 60_exceptions.md section 6 (R104): the snapshot is row-major, one all-one or all-zero word a cell. -/
def Obligations.SnapshotIsRowMajor : Prop :=
  ∀ s : State, s.snapshot.length = 2048 ∧
    ∀ (r : Fin 32) (c : Fin 64),
      s.snapshot.getD (r.val * 64 + c.val) 0 = if s.cellAt r c = true then 0xFFFFFFFF else 0

/-- 60_exceptions.md section 6 (R105): the input collaborator sets one key and nothing else. -/
def Obligations.KeySetChangesOneKey : Prop :=
  ∀ (k : Fin 16) (pressed : Bool) (s : State),
    (keySet k pressed s).keys[k] = pressed ∧ (∀ j : Fin 16, j ≠ k → (keySet k pressed s).keys[j] = s.keys[j]) ∧
    State.AgreeExcept [.keys] s (keySet k pressed s)

/-- 70_reset_and_hazards.md R115 (the spec's decision D26): from a complete program on, every cycle completes, leaves the
program complete and changes only the timers. The load window is the model's own field (log 12). -/
def Obligations.CompleteProgramChangesOnlyTimers : Prop :=
  ∀ s : State, s.Complete →
    ∃ t, step s = .next t ∧ t.Complete ∧ t.dt.toNat = s.dt.toNat - 1 ∧ t.st.toNat = s.st.toNat - 1 ∧
      State.AgreeExcept [.dt, .st, .loadOpen] s t
end

