-- ==== Sys2Proof/Laws/Memory.lean ====
section
/-! SUPPORT. The laws of memory: what a read gives after a write, and that every operation keeps the canonical form. The
read laws hold of every list, canonical or not. -/

namespace Sys2Proof.Machine

theorem Memory.read_erase (m : Memory) (a b : Nat) :
    Memory.read (Memory.erase m a) b = if a = b then Config.unlisted b else Memory.read m b := by
  induction m with
  | nil => simp [Memory.erase, Memory.read]
  | cons c m ih =>
    obtain ⟨k, w⟩ := c
    simp only [Memory.erase]
    by_cases hk : k = a
    · subst hk
      simp only [if_true, ih, Memory.read]
      split <;> simp_all
    · simp only [hk, if_false, Memory.read, ih]
      by_cases hb : k = b
      · subst hb; simp [Ne.symm hk]
      · simp [hb]

theorem Memory.read_insert (m : Memory) (a b : Nat) (v : Byte) (hm : ∀ c ∈ m, c.1 ≠ a) :
    Memory.read (Memory.insert m a v) b = if a = b then v else Memory.read m b := by
  induction m with
  | nil => simp [Memory.insert, Memory.read]
  | cons c m ih =>
    obtain ⟨k, w⟩ := c
    have hk : k ≠ a := hm (k, w) (by simp)
    have ih' := ih fun c hc => hm c (by simp [hc])
    simp only [Memory.insert]
    split
    · simp [Memory.read]
    · by_cases hb : k = b
      · subst hb; simp [Memory.read, Ne.symm hk]
      · simp [Memory.read, hb, ih']

theorem Memory.mem_erase (m : Memory) (a : Nat) (c : Host.Cell) (h : c ∈ Memory.erase m a) : c ∈ m ∧ c.1 ≠ a := by
  induction m with
  | nil => simp [Memory.erase] at h
  | cons d m ih =>
    obtain ⟨k, w⟩ := d
    simp only [Memory.erase] at h
    split at h
    · exact ⟨by simp [(ih h).1], (ih h).2⟩
    · rename_i hk
      rcases List.mem_cons.mp h with rfl | h
      · exact ⟨by simp, hk⟩
      · exact ⟨by simp [(ih h).1], (ih h).2⟩

theorem Memory.mem_insert (m : Memory) (a : Nat) (v : Byte) (c : Host.Cell) (h : c ∈ Memory.insert m a v) :
    c = (a, v) ∨ c ∈ m := by
  induction m with
  | nil => simpa [Memory.insert] using h
  | cons d m ih =>
    obtain ⟨k, w⟩ := d
    simp only [Memory.insert] at h
    split at h
    · simpa using h
    · rcases List.mem_cons.mp h with rfl | h
      · simp
      · rcases ih h with h | h <;> simp [h]

/-- A read after a write gives the byte written at that address and the old byte at every other. -/
theorem Memory.read_write (m : Memory) (a b : Nat) (v : Byte) :
    Memory.read (Memory.write m a v) b = if a = b then v else Memory.read m b := by
  simp only [Memory.write]
  split
  · rename_i h
    rw [Memory.read_erase]
    split
    · rename_i hab; rw [h, hab]
    · rfl
  · rw [Memory.read_insert _ _ _ _ fun c hc => (Memory.mem_erase m a c hc).2, Memory.read_erase]
    split <;> rfl

/-- A read after bytes are written from a: the byte written there, or the old byte outside them. -/
theorem Memory.read_writeBytes (bs : List Byte) (m : Memory) (a b : Nat) :
    Memory.read (Memory.writeBytes m a bs) b =
      if a ≤ b ∧ b < a + bs.length then bs.getD (b - a) 0 else Memory.read m b := by
  induction bs generalizing m a with
  | nil => simp [Memory.writeBytes]
  | cons v bs ih =>
    rw [Memory.writeBytes, ih, Memory.read_write]
    by_cases hab : a = b
    · subst hab; simp
    · by_cases hin : a + 1 ≤ b ∧ b < a + 1 + bs.length
      · have h1 : b - a = (b - (a + 1)) + 1 := by omega
        have h2 : a ≤ b ∧ b < a + (v :: bs).length := by simp; omega
        rw [if_pos hin, if_pos h2, h1, List.getD_cons_succ]
      · have h2 : ¬(a ≤ b ∧ b < a + (v :: bs).length) := by simp; omega
        rw [if_neg hin, if_neg h2, if_neg hab]

theorem Memory.length_readBytes (m : Memory) (a n : Nat) : (Memory.readBytes m a n).length = n := by
  induction n generalizing a with
  | zero => rfl
  | succ n ih => simp [Memory.readBytes, ih]

/-- The j-th byte of a range is the byte j addresses on. -/
theorem Memory.getD_readBytes (m : Memory) (a n j : Nat) (hj : j < n) :
    (Memory.readBytes m a n).getD j 0 = Memory.read m (a + j) := by
  induction n generalizing a j with
  | zero => omega
  | succ n ih =>
    cases j with
    | zero => simp [Memory.readBytes]
    | succ j =>
      rw [Memory.readBytes, List.getD_cons_succ, ih _ _ (by omega)]
      congr 1; omega

/-! ## The canonical form -/

theorem Memory.wf_cons (a : Nat) (v : Byte) (m : Memory) : Memory.wf ((a, v) :: m) = true ↔
    a < Config.memorySize ∧ v ≠ Config.unlisted a ∧ (∀ c ∈ m, a < c.1) ∧ Memory.wf m = true := by
  simp [Memory.wf, and_assoc]

theorem Memory.wf_erase (m : Memory) (a : Nat) (h : Memory.wf m = true) : Memory.wf (Memory.erase m a) = true := by
  induction m with
  | nil => rfl
  | cons c m ih =>
    obtain ⟨k, w⟩ := c
    obtain ⟨h1, h2, h3, h4⟩ := (Memory.wf_cons k w m).mp h
    simp only [Memory.erase]
    split
    · exact ih h4
    · exact (Memory.wf_cons _ _ _).mpr ⟨h1, h2, fun c hc => h3 c (Memory.mem_erase m a c hc).1, ih h4⟩

theorem Memory.wf_insert (m : Memory) (a : Nat) (v : Byte) (h : Memory.wf m = true) (ha : a < Config.memorySize)
    (hv : v ≠ Config.unlisted a) (hm : ∀ c ∈ m, c.1 ≠ a) : Memory.wf (Memory.insert m a v) = true := by
  induction m with
  | nil => exact (Memory.wf_cons _ _ _).mpr ⟨ha, hv, by simp, rfl⟩
  | cons c m ih =>
    obtain ⟨k, w⟩ := c
    obtain ⟨h1, h2, h3, h4⟩ := (Memory.wf_cons k w m).mp h
    have hk : k ≠ a := hm (k, w) (by simp)
    simp only [Memory.insert]
    split
    · rename_i hlt
      refine (Memory.wf_cons _ _ _).mpr ⟨ha, hv, fun c hc => ?_, h⟩
      rcases List.mem_cons.mp hc with rfl | hc
      · exact hlt
      · exact lt_trans hlt (h3 c hc)
    · refine (Memory.wf_cons _ _ _).mpr ⟨h1, h2, fun c hc => ?_, ih h4 fun c hc => hm c (by simp [hc])⟩
      rcases Memory.mem_insert m a v c hc with rfl | hc
      · dsimp only; omega
      · exact h3 c hc

/-- A write inside the address space keeps the canonical form. -/
theorem Memory.wf_write (m : Memory) (a : Nat) (v : Byte) (h : Memory.wf m = true) (ha : a < Config.memorySize) :
    Memory.wf (Memory.write m a v) = true := by
  simp only [Memory.write]
  split
  · exact Memory.wf_erase m a h
  · rename_i hv
    exact Memory.wf_insert _ _ _ (Memory.wf_erase m a h) ha hv fun c hc => (Memory.mem_erase m a c hc).2

/-- Bytes written inside the address space keep the canonical form. -/
theorem Memory.wf_writeBytes (bs : List Byte) (m : Memory) (a : Nat) (h : Memory.wf m = true)
    (ha : a + bs.length ≤ Config.memorySize) : Memory.wf (Memory.writeBytes m a bs) = true := by
  induction bs generalizing m a with
  | nil => exact h
  | cons v bs ih =>
    simp only [List.length_cons] at ha
    exact ih _ _ (Memory.wf_write m a v h (by omega)) (by omega)

end Sys2Proof.Machine
end

