-- ==== Sys2Proof/Laws/State.lean ====
section
/-! SUPPORT. What each setter of Machine/Ops.lean does to each field: one lemma for each setter and field. -/

namespace Sys2Proof.Machine

variable (s : State)

@[simp] theorem State.setV_mem (x : Reg) (b : Byte) : (s.setV x b).mem = s.mem := rfl
@[simp] theorem State.setV_v (x : Reg) (b : Byte) : (s.setV x b).v = s.v.set x b := rfl
@[simp] theorem State.setV_pc (x : Reg) (b : Byte) : (s.setV x b).pc = s.pc := rfl
@[simp] theorem State.setV_index (x : Reg) (b : Byte) : (s.setV x b).index = s.index := rfl
@[simp] theorem State.setV_stack (x : Reg) (b : Byte) : (s.setV x b).stack = s.stack := rfl
@[simp] theorem State.setV_sp (x : Reg) (b : Byte) : (s.setV x b).sp = s.sp := rfl
@[simp] theorem State.setV_dt (x : Reg) (b : Byte) : (s.setV x b).dt = s.dt := rfl
@[simp] theorem State.setV_st (x : Reg) (b : Byte) : (s.setV x b).st = s.st := rfl
@[simp] theorem State.setV_fb (x : Reg) (b : Byte) : (s.setV x b).fb = s.fb := rfl
@[simp] theorem State.setV_keys (x : Reg) (b : Byte) : (s.setV x b).keys = s.keys := rfl
@[simp] theorem State.setV_status (x : Reg) (b : Byte) : (s.setV x b).status = s.status := rfl
@[simp] theorem State.setV_diag (x : Reg) (b : Byte) : (s.setV x b).diag = s.diag := rfl
@[simp] theorem State.setV_randDraws (x : Reg) (b : Byte) : (s.setV x b).randDraws = s.randDraws := rfl
@[simp] theorem State.setV_loadOpen (x : Reg) (b : Byte) : (s.setV x b).loadOpen = s.loadOpen := rfl

@[simp] theorem State.setVs_mem (v : Vector Byte 16) : (s.setVs v).mem = s.mem := rfl
@[simp] theorem State.setVs_v (v : Vector Byte 16) : (s.setVs v).v = v := rfl
@[simp] theorem State.setVs_pc (v : Vector Byte 16) : (s.setVs v).pc = s.pc := rfl
@[simp] theorem State.setVs_index (v : Vector Byte 16) : (s.setVs v).index = s.index := rfl
@[simp] theorem State.setVs_stack (v : Vector Byte 16) : (s.setVs v).stack = s.stack := rfl
@[simp] theorem State.setVs_sp (v : Vector Byte 16) : (s.setVs v).sp = s.sp := rfl
@[simp] theorem State.setVs_dt (v : Vector Byte 16) : (s.setVs v).dt = s.dt := rfl
@[simp] theorem State.setVs_st (v : Vector Byte 16) : (s.setVs v).st = s.st := rfl
@[simp] theorem State.setVs_fb (v : Vector Byte 16) : (s.setVs v).fb = s.fb := rfl
@[simp] theorem State.setVs_keys (v : Vector Byte 16) : (s.setVs v).keys = s.keys := rfl
@[simp] theorem State.setVs_status (v : Vector Byte 16) : (s.setVs v).status = s.status := rfl
@[simp] theorem State.setVs_diag (v : Vector Byte 16) : (s.setVs v).diag = s.diag := rfl
@[simp] theorem State.setVs_randDraws (v : Vector Byte 16) : (s.setVs v).randDraws = s.randDraws := rfl
@[simp] theorem State.setVs_loadOpen (v : Vector Byte 16) : (s.setVs v).loadOpen = s.loadOpen := rfl

@[simp] theorem State.setPc_mem (a : Word) : (s.setPc a).mem = s.mem := rfl
@[simp] theorem State.setPc_v (a : Word) : (s.setPc a).v = s.v := rfl
@[simp] theorem State.setPc_pc (a : Word) : (s.setPc a).pc = a := rfl
@[simp] theorem State.setPc_index (a : Word) : (s.setPc a).index = s.index := rfl
@[simp] theorem State.setPc_stack (a : Word) : (s.setPc a).stack = s.stack := rfl
@[simp] theorem State.setPc_sp (a : Word) : (s.setPc a).sp = s.sp := rfl
@[simp] theorem State.setPc_dt (a : Word) : (s.setPc a).dt = s.dt := rfl
@[simp] theorem State.setPc_st (a : Word) : (s.setPc a).st = s.st := rfl
@[simp] theorem State.setPc_fb (a : Word) : (s.setPc a).fb = s.fb := rfl
@[simp] theorem State.setPc_keys (a : Word) : (s.setPc a).keys = s.keys := rfl
@[simp] theorem State.setPc_status (a : Word) : (s.setPc a).status = s.status := rfl
@[simp] theorem State.setPc_diag (a : Word) : (s.setPc a).diag = s.diag := rfl
@[simp] theorem State.setPc_randDraws (a : Word) : (s.setPc a).randDraws = s.randDraws := rfl
@[simp] theorem State.setPc_loadOpen (a : Word) : (s.setPc a).loadOpen = s.loadOpen := rfl

@[simp] theorem State.setIndex_mem (a : Word) : (s.setIndex a).mem = s.mem := rfl
@[simp] theorem State.setIndex_v (a : Word) : (s.setIndex a).v = s.v := rfl
@[simp] theorem State.setIndex_pc (a : Word) : (s.setIndex a).pc = s.pc := rfl
@[simp] theorem State.setIndex_index (a : Word) : (s.setIndex a).index = a := rfl
@[simp] theorem State.setIndex_stack (a : Word) : (s.setIndex a).stack = s.stack := rfl
@[simp] theorem State.setIndex_sp (a : Word) : (s.setIndex a).sp = s.sp := rfl
@[simp] theorem State.setIndex_dt (a : Word) : (s.setIndex a).dt = s.dt := rfl
@[simp] theorem State.setIndex_st (a : Word) : (s.setIndex a).st = s.st := rfl
@[simp] theorem State.setIndex_fb (a : Word) : (s.setIndex a).fb = s.fb := rfl
@[simp] theorem State.setIndex_keys (a : Word) : (s.setIndex a).keys = s.keys := rfl
@[simp] theorem State.setIndex_status (a : Word) : (s.setIndex a).status = s.status := rfl
@[simp] theorem State.setIndex_diag (a : Word) : (s.setIndex a).diag = s.diag := rfl
@[simp] theorem State.setIndex_randDraws (a : Word) : (s.setIndex a).randDraws = s.randDraws := rfl
@[simp] theorem State.setIndex_loadOpen (a : Word) : (s.setIndex a).loadOpen = s.loadOpen := rfl

@[simp] theorem State.setStack_mem (k : Vector Word 16) (n : Fin 17) : (s.setStack k n).mem = s.mem := rfl
@[simp] theorem State.setStack_v (k : Vector Word 16) (n : Fin 17) : (s.setStack k n).v = s.v := rfl
@[simp] theorem State.setStack_pc (k : Vector Word 16) (n : Fin 17) : (s.setStack k n).pc = s.pc := rfl
@[simp] theorem State.setStack_index (k : Vector Word 16) (n : Fin 17) : (s.setStack k n).index = s.index := rfl
@[simp] theorem State.setStack_stack (k : Vector Word 16) (n : Fin 17) : (s.setStack k n).stack = k := rfl
@[simp] theorem State.setStack_sp (k : Vector Word 16) (n : Fin 17) : (s.setStack k n).sp = n := rfl
@[simp] theorem State.setStack_dt (k : Vector Word 16) (n : Fin 17) : (s.setStack k n).dt = s.dt := rfl
@[simp] theorem State.setStack_st (k : Vector Word 16) (n : Fin 17) : (s.setStack k n).st = s.st := rfl
@[simp] theorem State.setStack_fb (k : Vector Word 16) (n : Fin 17) : (s.setStack k n).fb = s.fb := rfl
@[simp] theorem State.setStack_keys (k : Vector Word 16) (n : Fin 17) : (s.setStack k n).keys = s.keys := rfl
@[simp] theorem State.setStack_status (k : Vector Word 16) (n : Fin 17) : (s.setStack k n).status = s.status := rfl
@[simp] theorem State.setStack_diag (k : Vector Word 16) (n : Fin 17) : (s.setStack k n).diag = s.diag := rfl
@[simp] theorem State.setStack_randDraws (k : Vector Word 16) (n : Fin 17) : (s.setStack k n).randDraws = s.randDraws := rfl
@[simp] theorem State.setStack_loadOpen (k : Vector Word 16) (n : Fin 17) : (s.setStack k n).loadOpen = s.loadOpen := rfl

@[simp] theorem State.setDt_mem (b : Byte) : (s.setDt b).mem = s.mem := rfl
@[simp] theorem State.setDt_v (b : Byte) : (s.setDt b).v = s.v := rfl
@[simp] theorem State.setDt_pc (b : Byte) : (s.setDt b).pc = s.pc := rfl
@[simp] theorem State.setDt_index (b : Byte) : (s.setDt b).index = s.index := rfl
@[simp] theorem State.setDt_stack (b : Byte) : (s.setDt b).stack = s.stack := rfl
@[simp] theorem State.setDt_sp (b : Byte) : (s.setDt b).sp = s.sp := rfl
@[simp] theorem State.setDt_dt (b : Byte) : (s.setDt b).dt = b := rfl
@[simp] theorem State.setDt_st (b : Byte) : (s.setDt b).st = s.st := rfl
@[simp] theorem State.setDt_fb (b : Byte) : (s.setDt b).fb = s.fb := rfl
@[simp] theorem State.setDt_keys (b : Byte) : (s.setDt b).keys = s.keys := rfl
@[simp] theorem State.setDt_status (b : Byte) : (s.setDt b).status = s.status := rfl
@[simp] theorem State.setDt_diag (b : Byte) : (s.setDt b).diag = s.diag := rfl
@[simp] theorem State.setDt_randDraws (b : Byte) : (s.setDt b).randDraws = s.randDraws := rfl
@[simp] theorem State.setDt_loadOpen (b : Byte) : (s.setDt b).loadOpen = s.loadOpen := rfl

@[simp] theorem State.setSt_mem (b : Byte) : (s.setSt b).mem = s.mem := rfl
@[simp] theorem State.setSt_v (b : Byte) : (s.setSt b).v = s.v := rfl
@[simp] theorem State.setSt_pc (b : Byte) : (s.setSt b).pc = s.pc := rfl
@[simp] theorem State.setSt_index (b : Byte) : (s.setSt b).index = s.index := rfl
@[simp] theorem State.setSt_stack (b : Byte) : (s.setSt b).stack = s.stack := rfl
@[simp] theorem State.setSt_sp (b : Byte) : (s.setSt b).sp = s.sp := rfl
@[simp] theorem State.setSt_dt (b : Byte) : (s.setSt b).dt = s.dt := rfl
@[simp] theorem State.setSt_st (b : Byte) : (s.setSt b).st = b := rfl
@[simp] theorem State.setSt_fb (b : Byte) : (s.setSt b).fb = s.fb := rfl
@[simp] theorem State.setSt_keys (b : Byte) : (s.setSt b).keys = s.keys := rfl
@[simp] theorem State.setSt_status (b : Byte) : (s.setSt b).status = s.status := rfl
@[simp] theorem State.setSt_diag (b : Byte) : (s.setSt b).diag = s.diag := rfl
@[simp] theorem State.setSt_randDraws (b : Byte) : (s.setSt b).randDraws = s.randDraws := rfl
@[simp] theorem State.setSt_loadOpen (b : Byte) : (s.setSt b).loadOpen = s.loadOpen := rfl

@[simp] theorem State.setFb_mem (f : Framebuffer) : (s.setFb f).mem = s.mem := rfl
@[simp] theorem State.setFb_v (f : Framebuffer) : (s.setFb f).v = s.v := rfl
@[simp] theorem State.setFb_pc (f : Framebuffer) : (s.setFb f).pc = s.pc := rfl
@[simp] theorem State.setFb_index (f : Framebuffer) : (s.setFb f).index = s.index := rfl
@[simp] theorem State.setFb_stack (f : Framebuffer) : (s.setFb f).stack = s.stack := rfl
@[simp] theorem State.setFb_sp (f : Framebuffer) : (s.setFb f).sp = s.sp := rfl
@[simp] theorem State.setFb_dt (f : Framebuffer) : (s.setFb f).dt = s.dt := rfl
@[simp] theorem State.setFb_st (f : Framebuffer) : (s.setFb f).st = s.st := rfl
@[simp] theorem State.setFb_fb (f : Framebuffer) : (s.setFb f).fb = f := rfl
@[simp] theorem State.setFb_keys (f : Framebuffer) : (s.setFb f).keys = s.keys := rfl
@[simp] theorem State.setFb_status (f : Framebuffer) : (s.setFb f).status = s.status := rfl
@[simp] theorem State.setFb_diag (f : Framebuffer) : (s.setFb f).diag = s.diag := rfl
@[simp] theorem State.setFb_randDraws (f : Framebuffer) : (s.setFb f).randDraws = s.randDraws := rfl
@[simp] theorem State.setFb_loadOpen (f : Framebuffer) : (s.setFb f).loadOpen = s.loadOpen := rfl

@[simp] theorem State.setMem_mem (m : Memory) : (s.setMem m).mem = m := rfl
@[simp] theorem State.setMem_v (m : Memory) : (s.setMem m).v = s.v := rfl
@[simp] theorem State.setMem_pc (m : Memory) : (s.setMem m).pc = s.pc := rfl
@[simp] theorem State.setMem_index (m : Memory) : (s.setMem m).index = s.index := rfl
@[simp] theorem State.setMem_stack (m : Memory) : (s.setMem m).stack = s.stack := rfl
@[simp] theorem State.setMem_sp (m : Memory) : (s.setMem m).sp = s.sp := rfl
@[simp] theorem State.setMem_dt (m : Memory) : (s.setMem m).dt = s.dt := rfl
@[simp] theorem State.setMem_st (m : Memory) : (s.setMem m).st = s.st := rfl
@[simp] theorem State.setMem_fb (m : Memory) : (s.setMem m).fb = s.fb := rfl
@[simp] theorem State.setMem_keys (m : Memory) : (s.setMem m).keys = s.keys := rfl
@[simp] theorem State.setMem_status (m : Memory) : (s.setMem m).status = s.status := rfl
@[simp] theorem State.setMem_diag (m : Memory) : (s.setMem m).diag = s.diag := rfl
@[simp] theorem State.setMem_randDraws (m : Memory) : (s.setMem m).randDraws = s.randDraws := rfl
@[simp] theorem State.setMem_loadOpen (m : Memory) : (s.setMem m).loadOpen = s.loadOpen := rfl

@[simp] theorem State.setKeys_mem (k : Vector Bool 16) : (s.setKeys k).mem = s.mem := rfl
@[simp] theorem State.setKeys_v (k : Vector Bool 16) : (s.setKeys k).v = s.v := rfl
@[simp] theorem State.setKeys_pc (k : Vector Bool 16) : (s.setKeys k).pc = s.pc := rfl
@[simp] theorem State.setKeys_index (k : Vector Bool 16) : (s.setKeys k).index = s.index := rfl
@[simp] theorem State.setKeys_stack (k : Vector Bool 16) : (s.setKeys k).stack = s.stack := rfl
@[simp] theorem State.setKeys_sp (k : Vector Bool 16) : (s.setKeys k).sp = s.sp := rfl
@[simp] theorem State.setKeys_dt (k : Vector Bool 16) : (s.setKeys k).dt = s.dt := rfl
@[simp] theorem State.setKeys_st (k : Vector Bool 16) : (s.setKeys k).st = s.st := rfl
@[simp] theorem State.setKeys_fb (k : Vector Bool 16) : (s.setKeys k).fb = s.fb := rfl
@[simp] theorem State.setKeys_keys (k : Vector Bool 16) : (s.setKeys k).keys = k := rfl
@[simp] theorem State.setKeys_status (k : Vector Bool 16) : (s.setKeys k).status = s.status := rfl
@[simp] theorem State.setKeys_diag (k : Vector Bool 16) : (s.setKeys k).diag = s.diag := rfl
@[simp] theorem State.setKeys_randDraws (k : Vector Bool 16) : (s.setKeys k).randDraws = s.randDraws := rfl
@[simp] theorem State.setKeys_loadOpen (k : Vector Bool 16) : (s.setKeys k).loadOpen = s.loadOpen := rfl

@[simp] theorem State.setStatus_mem (u : Status) : (s.setStatus u).mem = s.mem := rfl
@[simp] theorem State.setStatus_v (u : Status) : (s.setStatus u).v = s.v := rfl
@[simp] theorem State.setStatus_pc (u : Status) : (s.setStatus u).pc = s.pc := rfl
@[simp] theorem State.setStatus_index (u : Status) : (s.setStatus u).index = s.index := rfl
@[simp] theorem State.setStatus_stack (u : Status) : (s.setStatus u).stack = s.stack := rfl
@[simp] theorem State.setStatus_sp (u : Status) : (s.setStatus u).sp = s.sp := rfl
@[simp] theorem State.setStatus_dt (u : Status) : (s.setStatus u).dt = s.dt := rfl
@[simp] theorem State.setStatus_st (u : Status) : (s.setStatus u).st = s.st := rfl
@[simp] theorem State.setStatus_fb (u : Status) : (s.setStatus u).fb = s.fb := rfl
@[simp] theorem State.setStatus_keys (u : Status) : (s.setStatus u).keys = s.keys := rfl
@[simp] theorem State.setStatus_status (u : Status) : (s.setStatus u).status = u := rfl
@[simp] theorem State.setStatus_diag (u : Status) : (s.setStatus u).diag = s.diag := rfl
@[simp] theorem State.setStatus_randDraws (u : Status) : (s.setStatus u).randDraws = s.randDraws := rfl
@[simp] theorem State.setStatus_loadOpen (u : Status) : (s.setStatus u).loadOpen = s.loadOpen := rfl

@[simp] theorem State.addReport_mem (r : UnknownReport) : (s.addReport r).mem = s.mem := rfl
@[simp] theorem State.addReport_v (r : UnknownReport) : (s.addReport r).v = s.v := rfl
@[simp] theorem State.addReport_pc (r : UnknownReport) : (s.addReport r).pc = s.pc := rfl
@[simp] theorem State.addReport_index (r : UnknownReport) : (s.addReport r).index = s.index := rfl
@[simp] theorem State.addReport_stack (r : UnknownReport) : (s.addReport r).stack = s.stack := rfl
@[simp] theorem State.addReport_sp (r : UnknownReport) : (s.addReport r).sp = s.sp := rfl
@[simp] theorem State.addReport_dt (r : UnknownReport) : (s.addReport r).dt = s.dt := rfl
@[simp] theorem State.addReport_st (r : UnknownReport) : (s.addReport r).st = s.st := rfl
@[simp] theorem State.addReport_fb (r : UnknownReport) : (s.addReport r).fb = s.fb := rfl
@[simp] theorem State.addReport_keys (r : UnknownReport) : (s.addReport r).keys = s.keys := rfl
@[simp] theorem State.addReport_status (r : UnknownReport) : (s.addReport r).status = s.status := rfl
@[simp] theorem State.addReport_diag (r : UnknownReport) : (s.addReport r).diag = s.diag ++ [r] := rfl
@[simp] theorem State.addReport_randDraws (r : UnknownReport) : (s.addReport r).randDraws = s.randDraws := rfl
@[simp] theorem State.addReport_loadOpen (r : UnknownReport) : (s.addReport r).loadOpen = s.loadOpen := rfl

@[simp] theorem State.setDraws_mem (n : Nat) : (s.setDraws n).mem = s.mem := rfl
@[simp] theorem State.setDraws_v (n : Nat) : (s.setDraws n).v = s.v := rfl
@[simp] theorem State.setDraws_pc (n : Nat) : (s.setDraws n).pc = s.pc := rfl
@[simp] theorem State.setDraws_index (n : Nat) : (s.setDraws n).index = s.index := rfl
@[simp] theorem State.setDraws_stack (n : Nat) : (s.setDraws n).stack = s.stack := rfl
@[simp] theorem State.setDraws_sp (n : Nat) : (s.setDraws n).sp = s.sp := rfl
@[simp] theorem State.setDraws_dt (n : Nat) : (s.setDraws n).dt = s.dt := rfl
@[simp] theorem State.setDraws_st (n : Nat) : (s.setDraws n).st = s.st := rfl
@[simp] theorem State.setDraws_fb (n : Nat) : (s.setDraws n).fb = s.fb := rfl
@[simp] theorem State.setDraws_keys (n : Nat) : (s.setDraws n).keys = s.keys := rfl
@[simp] theorem State.setDraws_status (n : Nat) : (s.setDraws n).status = s.status := rfl
@[simp] theorem State.setDraws_diag (n : Nat) : (s.setDraws n).diag = s.diag := rfl
@[simp] theorem State.setDraws_randDraws (n : Nat) : (s.setDraws n).randDraws = n := rfl
@[simp] theorem State.setDraws_loadOpen (n : Nat) : (s.setDraws n).loadOpen = s.loadOpen := rfl

@[simp] theorem State.closeLoad_mem : (s.closeLoad).mem = s.mem := rfl
@[simp] theorem State.closeLoad_v : (s.closeLoad).v = s.v := rfl
@[simp] theorem State.closeLoad_pc : (s.closeLoad).pc = s.pc := rfl
@[simp] theorem State.closeLoad_index : (s.closeLoad).index = s.index := rfl
@[simp] theorem State.closeLoad_stack : (s.closeLoad).stack = s.stack := rfl
@[simp] theorem State.closeLoad_sp : (s.closeLoad).sp = s.sp := rfl
@[simp] theorem State.closeLoad_dt : (s.closeLoad).dt = s.dt := rfl
@[simp] theorem State.closeLoad_st : (s.closeLoad).st = s.st := rfl
@[simp] theorem State.closeLoad_fb : (s.closeLoad).fb = s.fb := rfl
@[simp] theorem State.closeLoad_keys : (s.closeLoad).keys = s.keys := rfl
@[simp] theorem State.closeLoad_status : (s.closeLoad).status = s.status := rfl
@[simp] theorem State.closeLoad_diag : (s.closeLoad).diag = s.diag := rfl
@[simp] theorem State.closeLoad_randDraws : (s.closeLoad).randDraws = s.randDraws := rfl
@[simp] theorem State.closeLoad_loadOpen : (s.closeLoad).loadOpen = false := rfl

/-! ## Registers read after a write -/

@[simp] theorem State.getV_setV (x y : Reg) (b : Byte) : (s.setV x b).getV y = if x = y then b else s.getV y := by
  simp [State.getV, Vector.getElem_set, Fin.ext_iff]

@[simp] theorem State.getV_setPc (a : Word) (y : Reg) : (s.setPc a).getV y = s.getV y := rfl
@[simp] theorem State.getV_setIndex (a : Word) (y : Reg) : (s.setIndex a).getV y = s.getV y := rfl
@[simp] theorem State.getV_setStack (k : Vector Word 16) (n : Fin 17) (y : Reg) : (s.setStack k n).getV y = s.getV y := rfl
@[simp] theorem State.getV_setDt (b : Byte) (y : Reg) : (s.setDt b).getV y = s.getV y := rfl
@[simp] theorem State.getV_setSt (b : Byte) (y : Reg) : (s.setSt b).getV y = s.getV y := rfl
@[simp] theorem State.getV_setFb (f : Framebuffer) (y : Reg) : (s.setFb f).getV y = s.getV y := rfl
@[simp] theorem State.getV_setMem (m : Memory) (y : Reg) : (s.setMem m).getV y = s.getV y := rfl
@[simp] theorem State.getV_setKeys (k : Vector Bool 16) (y : Reg) : (s.setKeys k).getV y = s.getV y := rfl
@[simp] theorem State.getV_setStatus (u : Status) (y : Reg) : (s.setStatus u).getV y = s.getV y := rfl
@[simp] theorem State.getV_addReport (r : UnknownReport) (y : Reg) : (s.addReport r).getV y = s.getV y := rfl
@[simp] theorem State.getV_setDraws (n : Nat) (y : Reg) : (s.setDraws n).getV y = s.getV y := rfl
@[simp] theorem State.getV_closeLoad (y : Reg) : (s.closeLoad).getV y = s.getV y := rfl

end Sys2Proof.Machine
end

