-- ==== Sys2Proof/Laws/Ops.lean ====
section
/-! SUPPORT. One lemma for each shared operation that says everything it can do. -/

namespace Sys2Proof.Machine

variable (s : State)

/-! ## Errors -/

/-- Where an operation has no effect the fatal error is the whole effect; else its effect is the next state. -/
theorem State.orFatal_cases (kind : FatalKind) (o : Option State) (t : State) (h : s.orFatal kind o = .next t) :
    o = some t ∨ (o = none ∧ t = s.raiseFatal kind) := by
  cases o <;> simp_all [State.orFatal, eq_comm]

@[simp] theorem State.orFatal_some (kind : FatalKind) (t : State) : s.orFatal kind (some t) = .next t := rfl

@[simp] theorem State.orFatal_none (kind : FatalKind) : s.orFatal kind none = .next (s.raiseFatal kind) := rfl

@[simp] theorem State.raiseFatal_status (kind : FatalKind) : (s.raiseFatal kind).status = .halted kind := rfl

/-! ## The program counter -/

theorem State.skipIf_eq (c : Bool) : s.skipIf c = s.setPc (if c then s.pc + 2 else s.pc) := by
  cases c <;> rfl

theorem State.retreat_eq : s.retreat = s.setPc (s.pc - 2) := rfl

/-! ## Memory ranges -/

theorem State.memRead_some (a : Nat) (b : Byte) : s.memRead a = some b ↔ a ≤ 4095 ∧ b = Memory.read s.mem a := by
  unfold State.memRead
  split
  · simp; omega
  · simp [eq_comm]; omega

theorem State.memWrite_some (a : Nat) (b : Byte) (t : State) :
    s.memWrite a b = some t ↔ a ≤ 4095 ∧ t = s.setMem (Memory.write s.mem a b) := by
  unfold State.memWrite
  split
  · simp; omega
  · simp [eq_comm]; omega

theorem State.readRange_some (lo hi : Nat) (bs : List Byte) :
    s.readRange lo hi = some bs ↔ hi ≤ 4096 ∧ bs = Memory.readBytes s.mem lo (hi - lo) := by
  unfold State.readRange
  split
  · simp; omega
  · simp [eq_comm]; omega

theorem State.readRange_none (lo hi : Nat) : s.readRange lo hi = none ↔ 4096 < hi := by
  unfold State.readRange; split <;> simp_all

theorem State.writeRange_some (lo : Nat) (bs : List Byte) (t : State) :
    s.writeRange lo bs = some t ↔ lo + bs.length ≤ 4096 ∧ t = s.setMem (Memory.writeBytes s.mem lo bs) := by
  unfold State.writeRange
  split
  · simp; omega
  · simp [eq_comm]; omega

theorem State.writeRange_none (lo : Nat) (bs : List Byte) : s.writeRange lo bs = none ↔ 4096 < lo + bs.length := by
  unfold State.writeRange; split <;> simp_all

/-! ## The call stack -/

theorem State.push_some (a : Word) (t : State) : s.push a = some t ↔
    ∃ h : s.sp.val < 16, t = s.setStack (s.stack.set s.sp.val a) ⟨s.sp.val + 1, by omega⟩ := by
  unfold State.push; split <;> simp_all [eq_comm]

theorem State.push_none (a : Word) : s.push a = none ↔ s.sp.val = 16 := by
  unfold State.push; split <;> simp <;> omega

theorem State.pop_some (a : Word) (t : State) : s.pop = some (a, t) ↔
    ∃ h : 0 < s.sp.val, a = s.stack[s.sp.val - 1] ∧ t = s.setStack s.stack ⟨s.sp.val - 1, by omega⟩ := by
  unfold State.pop; split <;> simp_all [eq_comm]

theorem State.pop_none : s.pop = none ↔ s.sp.val = 0 := by
  unfold State.pop; split <;> simp <;> omega

/-! ## Register ranges -/

theorem State.length_dump (x : Reg) : (s.dump x).length = x.val + 1 := by
  simp [State.dump]

/-- The j-th byte of a dump is V[j]. -/
theorem State.getD_dump (x j : Reg) (h : j ≤ x) : (s.dump x).getD j.val 0 = s.getV j := by
  have hj : j.val < x.val + 1 := Nat.lt_succ_of_le h
  simp [State.dump, State.getV, hj]

/-- A register after bytes are loaded from number j on: the byte for it, or its old value. -/
theorem getElem_loadRegs (bs : List Byte) (v : Vector Byte 16) (j : Nat) (r : Reg) :
    (loadRegs v j bs)[r] = if j ≤ r.val ∧ r.val < j + bs.length then bs.getD (r.val - j) 0 else v[r] := by
  induction bs generalizing v j with
  | nil => simp [loadRegs]
  | cons b bs ih =>
    rw [loadRegs, ih]
    by_cases hj : j = r.val
    · have h1 : ¬(j + 1 ≤ r.val ∧ r.val < j + 1 + bs.length) := by omega
      rw [if_neg h1]
      simp [hj]
    · have h0 : (v.setIfInBounds j b)[r] = v[r] := by simp [hj]
      by_cases h1 : j + 1 ≤ r.val ∧ r.val < j + 1 + bs.length
      · have h2 : r.val - j = (r.val - (j + 1)) + 1 := by omega
        have h3 : j ≤ r.val ∧ r.val < j + (b :: bs).length := by simp; omega
        rw [if_pos h1, if_pos h3, h2, List.getD_cons_succ]
      · have h3 : ¬(j ≤ r.val ∧ r.val < j + (b :: bs).length) := by simp; omega
        rw [if_neg h1, if_neg h3, h0]

/-! ## Keys, timers, operands -/

/-- The lowest pressed key is pressed and no lower one is. -/
theorem State.lowestPressed_some (k : Fin 16) :
    s.lowestPressed = some k ↔ s.keys[k] = true ∧ ∀ j : Fin 16, j < k → s.keys[j] = false := by
  have key : ∀ p : Fin 16 → Bool,
      (List.finRange 16).find? p = some k ↔ p k = true ∧ ∀ j : Fin 16, j < k → p j = false := by
    intro p
    rw [List.find?_eq_some_iff_getElem]
    constructor
    · rintro ⟨hk, i, hi, hik, hlt⟩
      refine ⟨hk, fun j hj => ?_⟩
      have hik' : i = k.val := by rw [← hik]; simp
      have := hlt j.val (by rw [hik']; exact hj)
      simpa using this
    · rintro ⟨hk, hlt⟩
      refine ⟨hk, k.val, by simp, by simp, fun j hj => ?_⟩
      simpa using hlt ⟨j, by omega⟩ hj
  exact key fun j => s.keys[j]

theorem State.lowestPressed_none : s.lowestPressed = none ↔ ∀ k : Fin 16, s.keys[k] = false := by
  simp [State.lowestPressed, List.find?_eq_none]

/-- A timer after a cycle, as a number: truncated subtraction of one. -/
theorem toNat_tick (t : Byte) : (tick t).toNat = t.toNat - 1 := by
  unfold tick
  split
  · simp_all
  · rename_i h
    have : t.toNat ≠ 0 := fun h0 => h (BitVec.eq_of_toNat_eq (by simpa using h0))
    have := t.isLt
    rw [BitVec.toNat_sub]; simp; omega

@[simp] theorem State.tickTimers_dt : s.tickTimers.dt = tick s.dt := rfl
@[simp] theorem State.tickTimers_st : s.tickTimers.st = tick s.st := rfl

theorem nibbleIndex_some (b : Byte) (k : Fin 16) : nibbleIndex b = some k ↔ b.toNat = k.val := by
  unfold nibbleIndex
  split
  · simp [Fin.ext_iff]
  · simp; omega

theorem nibbleIndex_none (b : Byte) : nibbleIndex b = none ↔ 15 < b.toNat := by
  unfold nibbleIndex; split <;> simp <;> omega

theorem indexSum_some (i : Word) (b : Byte) (a : Word) :
    indexSum i b = some a ↔ i.toNat + b.toNat = a.toNat := by
  have ha := a.isLt
  unfold indexSum
  split
  · simp; omega
  · rename_i h
    have h' : i.toNat + b.toNat < 2 ^ 16 := by omega
    rw [Option.some.injEq]
    constructor
    · rintro rfl; rw [BitVec.toNat_ofNat, Nat.mod_eq_of_lt h']
    · intro h2; exact BitVec.eq_of_toNat_eq (by rw [BitVec.toNat_ofNat, Nat.mod_eq_of_lt h', h2])

theorem indexSum_none (i : Word) (b : Byte) : indexSum i b = none ↔ 0xFFFF < i.toNat + b.toNat := by
  unfold indexSum; split <;> simp_all

theorem toNat_addrWord (nnn : Addr) : (addrWord nnn).toNat = nnn.toNat := by
  have := nnn.isLt
  simp [addrWord]; omega

theorem toNat_offsetTarget (b : Byte) (nnn : Addr) : (offsetTarget b nnn).toNat = b.toNat + nnn.toNat := by
  have := nnn.isLt
  have := b.isLt
  simp [offsetTarget]; omega

theorem toNat_glyphAddr (d : Fin 16) : (glyphAddr d).toNat = 0x50 + 5 * d.val := by
  have := d.isLt
  simp [glyphAddr, Config.fontBase, Config.glyphBytes]; omega

/-- A register after a result and its flag are written: VF holds the flag whatever the destination is. -/
@[simp] theorem State.getV_setResultAndFlag (x r : Reg) (b f : Byte) :
    (s.setResultAndFlag x b f).getV r = if r = 15 then f else if r = x then b else s.getV r := by
  simp [State.setResultAndFlag, eq_comm]

/-! ## The fetch -/

theorem State.fetch_some (w : Word) (t : State) : s.fetch = some (w, t) ↔
    s.pc.toNat + 1 ≤ 4095 ∧ w = wordOfBytes (Memory.read s.mem s.pc.toNat) (Memory.read s.mem (s.pc.toNat + 1)) ∧
      t = s.setPc (s.pc + 2) := by
  unfold State.fetch
  split
  · simp; omega
  · simp [eq_comm]; omega

theorem State.fetch_none : s.fetch = none ↔ 4095 < s.pc.toNat + 1 := by
  unfold State.fetch; split <;> simp_all

end Sys2Proof.Machine
end

