-- ==== Sys2Proof/Laws/Cycle.lean ====
section
/-! SUPPORT. What a cycle can do: the inversion lemmas of the end of a cycle and of the step (spec/30_encoding.md R47). -/

namespace Sys2Proof.Machine

/-- The end of a cycle that answers a next state: the timers ticked after a running outcome, or a halted one as it is. -/
theorem finishCycle_next (o : Host.Outcome State Fault Refusal) (t : State) (h : finishCycle o = .next t) :
    ∃ u, o = .next u ∧
      ((u.status = .running ∧ t = u.tickTimers) ∨ (∃ kind, u.status = .halted kind ∧ t = u)) := by
  cases o with
  | next u =>
    refine ⟨u, rfl, ?_⟩
    simp only [finishCycle] at h
    split at h
    · rename_i hr; exact .inl ⟨hr, by simpa using h.symm⟩
    · rename_i k hk; exact .inr ⟨k, hk, by simpa using h.symm⟩
  | fault r => simp [finishCycle] at h
  | refused r => simp [finishCycle] at h

/-- A word's execution: its instruction, or the report of an unknown word. -/
theorem execWord_cases (w : Word) (s : State) :
    (∃ i, decodeWord w = .ok i ∧ execWord w s = exec i s) ∨
      (∃ r, decodeWord w = .error r ∧ execWord w s = .next (s.reportUnknown w)) := by
  unfold execWord
  cases h : decodeWord w with
  | ok i => exact .inl ⟨i, rfl, rfl⟩
  | error r => exact .inr ⟨r, rfl, rfl⟩

/-- A step that answers a next state starts from a running machine: its fetch fails and the machine halts, or the word at
pc is executed with pc advanced, and the end of the cycle follows. -/
theorem step_next (s t : State) (h : step s = .next t) :
    s.status = .running ∧
      ((4095 < s.pc.toNat + 1 ∧ t = s.closeLoad.raiseFatal .outOfBounds) ∨
        ∃ w u, s.closeLoad.fetch = some (w, u) ∧ finishCycle (execWord w u) = .next t) := by
  unfold step cycle at h
  split at h
  · rename_i hr
    refine ⟨hr, ?_⟩
    unfold runCycle at h
    split at h
    · rename_i hf
      exact .inl ⟨(State.fetch_none s.closeLoad).mp hf, by simpa using h.symm⟩
    · rename_i w u hf
      exact .inr ⟨w, u, hf, h⟩
  · simp at h

end Sys2Proof.Machine
end

