-- ==== Sys2Proof/Laws/Draw.lean ====
section
/-! SUPPORT. What drawing a sprite does to each framebuffer cell and to the collision flag (spec/40_display.md R52, R53). -/

namespace Sys2Proof.Machine

/-- A toggle inverts its own cell and no other. -/
theorem Framebuffer.cell_toggle (fb : Framebuffer) (r c r' c' : Nat) :
    (fb.toggle r c).cell r' c' = (fb.cell r' c' ^^ decide (r % 32 = r' % 32 ∧ c % 64 = c' % 64)) := by
  simp only [Framebuffer.toggle, Framebuffer.cell, Vector.getElem_set]
  by_cases hr : r % 32 = r' % 32
  · by_cases hc : c % 64 = c' % 64
    · simp [hr, hc]
    · simp [hr, hc]
  · simp [hr]

/-- Some set bit among the listed columns of a row drawn at (r, px) falls on cell (r', c'). -/
def HitsCols (row : Byte) (r px : Nat) (cols : List Nat) (r' c' : Nat) : Prop :=
  r % 32 = r' % 32 ∧ ∃ col ∈ cols, spriteBit row col = true ∧ (px + col) % 64 = c' % 64

/-- Some set bit of the rows drawn from (r, px) falls on cell (r', c'). -/
def HitsRows (r px : Nat) (rows : List Byte) (r' c' : Nat) : Prop :=
  ∃ j col, j < rows.length ∧ col < 8 ∧ spriteBit (rows.getD j 0) col = true ∧
    (r + j) % 32 = r' % 32 ∧ (px + col) % 64 = c' % 64

/-- Distinct columns of one row: each hit cell is inverted once, and the collision flag is raised exactly if a hit cell
was on. -/
theorem Canvas.drawCols_spec (row : Byte) (r px : Nat) (cols : List Nat) (d : Canvas)
    (hlt : ∀ c ∈ cols, c < 8) (hnd : cols.Nodup) :
    (∀ r' c', (HitsCols row r px cols r' c' → (d.drawCols row r px cols).fb.cell r' c' = !d.fb.cell r' c') ∧
      (¬HitsCols row r px cols r' c' → (d.drawCols row r px cols).fb.cell r' c' = d.fb.cell r' c')) ∧
    ((d.drawCols row r px cols).collision = true ↔
      d.collision = true ∨ ∃ r' c', HitsCols row r px cols r' c' ∧ d.fb.cell r' c' = true) := by
  induction cols generalizing d with
  | nil => simp [Canvas.drawCols, HitsCols]
  | cons col cols ih =>
    have hlt' : ∀ c ∈ cols, c < 8 := fun c hc => hlt c (by simp [hc])
    have hcol : col < 8 := hlt col (by simp)
    have hnotin : col ∉ cols := (List.nodup_cons.mp hnd).1
    have hnd' := (List.nodup_cons.mp hnd).2
    rw [Canvas.drawCols]
    by_cases hbit : spriteBit row col = true
    · simp only [hbit, if_true]
      obtain ⟨hfb, hcoll⟩ := ih (d.dot r (px + col)) hlt' hnd'
      have hsplit : ∀ r' c', HitsCols row r px (col :: cols) r' c' ↔
          (r % 32 = r' % 32 ∧ (px + col) % 64 = c' % 64) ∨ HitsCols row r px cols r' c' := by
        intro r' c'
        simp only [HitsCols, List.mem_cons, exists_eq_or_imp, hbit, true_and]
        tauto
      have hdisj : ∀ r' c', HitsCols row r px cols r' c' → ¬(r % 32 = r' % 32 ∧ (px + col) % 64 = c' % 64) := by
        rintro r' c' ⟨_, c2, hc2, _, he⟩ ⟨_, he'⟩
        have := hlt' c2 hc2
        have : c2 = col := by omega
        exact hnotin (this ▸ hc2)
      have hdot : ∀ r' c', (d.dot r (px + col)).fb.cell r' c' =
          (d.fb.cell r' c' ^^ decide (r % 32 = r' % 32 ∧ (px + col) % 64 = c' % 64)) :=
        fun r' c' => Framebuffer.cell_toggle ..
      refine ⟨fun r' c' => ⟨fun h => ?_, fun h => ?_⟩, ?_⟩
      · rcases (hsplit r' c').mp h with h1 | h1
        · rw [(hfb r' c').2 fun h2 => hdisj r' c' h2 h1, hdot, decide_eq_true h1]; simp
        · rw [(hfb r' c').1 h1, hdot, decide_eq_false (hdisj r' c' h1)]; simp
      · have h1 := fun h2 => h ((hsplit r' c').mpr (.inl h2))
        have h2 := fun h2 => h ((hsplit r' c').mpr (.inr h2))
        rw [(hfb r' c').2 h2, hdot, decide_eq_false h1]; simp
      · rw [hcoll]
        have hd : (d.dot r (px + col)).collision = (d.collision || d.fb.cell r (px + col)) := rfl
        rw [hd, Bool.or_eq_true]
        constructor
        · rintro ((h | h) | ⟨r', c', h, hc⟩)
          · exact .inl h
          · exact .inr ⟨r, px + col, (hsplit _ _).mpr (.inl ⟨rfl, rfl⟩), h⟩
          · refine .inr ⟨r', c', (hsplit _ _).mpr (.inr h), ?_⟩
            rw [hdot, decide_eq_false (hdisj r' c' h)] at hc; simpa using hc
        · rintro (h | ⟨r', c', h, hc⟩)
          · exact .inl (.inl h)
          · rcases (hsplit r' c').mp h with h1 | h1
            · refine .inl (.inr ?_)
              have : d.fb.cell r (px + col) = d.fb.cell r' c' := by
                simp only [Framebuffer.cell, h1.1, h1.2]
              rw [this, hc]
            · refine .inr ⟨r', c', h1, ?_⟩
              rw [hdot, decide_eq_false (hdisj r' c' h1)]; simpa using hc
    · simp only [hbit, if_false, Bool.false_eq_true]
      have hsame : ∀ r' c', HitsCols row r px (col :: cols) r' c' ↔ HitsCols row r px cols r' c' := by
        intro r' c'
        simp [HitsCols, hbit]
      simp only [hsame]
      exact ih d hlt' hnd'

/-- At most 32 rows: each hit cell is inverted once, and the collision flag is raised exactly if a hit cell was on. -/
theorem Canvas.drawRows_spec (rows : List Byte) (r px : Nat) (d : Canvas) (hlen : rows.length ≤ 32) :
    (∀ r' c', (HitsRows r px rows r' c' → (d.drawRows r px rows).fb.cell r' c' = !d.fb.cell r' c') ∧
      (¬HitsRows r px rows r' c' → (d.drawRows r px rows).fb.cell r' c' = d.fb.cell r' c')) ∧
    ((d.drawRows r px rows).collision = true ↔
      d.collision = true ∨ ∃ r' c', HitsRows r px rows r' c' ∧ d.fb.cell r' c' = true) := by
  induction rows generalizing d r with
  | nil => simp [Canvas.drawRows, HitsRows]
  | cons row rows ih =>
    simp only [List.length_cons] at hlen
    rw [Canvas.drawRows]
    obtain ⟨hfb1, hc1⟩ := Canvas.drawCols_spec row r px [0, 1, 2, 3, 4, 5, 6, 7] d (by decide) (by decide)
    obtain ⟨hfb2, hc2⟩ := ih (r + 1) (d.drawCols row r px [0, 1, 2, 3, 4, 5, 6, 7]) (by omega)
    have hcols : ∀ c, c ∈ [0, 1, 2, 3, 4, 5, 6, 7] ↔ c < 8 := by intro c; simp; omega
    have hsplit : ∀ r' c', HitsRows r px (row :: rows) r' c' ↔
        HitsCols row r px [0, 1, 2, 3, 4, 5, 6, 7] r' c' ∨ HitsRows (r + 1) px rows r' c' := by
      intro r' c'
      constructor
      · rintro ⟨j, col, hj, hcol, hb, h1, h2⟩
        cases j with
        | zero => exact .inl ⟨by simpa using h1, col, (hcols col).mpr hcol, by simpa using hb, h2⟩
        | succ j =>
          refine .inr ⟨j, col, by simpa using hj, hcol, by simpa using hb, ?_, h2⟩
          rw [← h1]; congr 1; omega
      · rintro (⟨h1, col, hcol, hb, h2⟩ | ⟨j, col, hj, hcol, hb, h1, h2⟩)
        · exact ⟨0, col, by simp, (hcols col).mp hcol, by simpa using hb, by simpa using h1, h2⟩
        · refine ⟨j + 1, col, by simpa using hj, hcol, by simpa using hb, ?_, h2⟩
          rw [← h1]; congr 1; omega
    have hdisj : ∀ r' c', HitsRows (r + 1) px rows r' c' → ¬HitsCols row r px [0, 1, 2, 3, 4, 5, 6, 7] r' c' := by
      rintro r' c' ⟨j, _, hj, _, _, h1, _⟩ ⟨h2, _⟩
      omega
    refine ⟨fun r' c' => ⟨fun h => ?_, fun h => ?_⟩, ?_⟩
    · rcases (hsplit r' c').mp h with h1 | h1
      · rw [(hfb2 r' c').2 fun h2 => hdisj r' c' h2 h1, (hfb1 r' c').1 h1]
      · rw [(hfb2 r' c').1 h1, (hfb1 r' c').2 (hdisj r' c' h1)]
    · rw [(hfb2 r' c').2 fun h2 => h ((hsplit r' c').mpr (.inr h2)),
        (hfb1 r' c').2 fun h2 => h ((hsplit r' c').mpr (.inl h2))]
    · rw [hc2, hc1]
      constructor
      · rintro ((h | ⟨r', c', h, hc⟩) | ⟨r', c', h, hc⟩)
        · exact .inl h
        · exact .inr ⟨r', c', (hsplit _ _).mpr (.inl h), hc⟩
        · rw [(hfb1 r' c').2 (hdisj r' c' h)] at hc
          exact .inr ⟨r', c', (hsplit _ _).mpr (.inr h), hc⟩
      · rintro (h | ⟨r', c', h, hc⟩)
        · exact .inl (.inl h)
        · rcases (hsplit r' c').mp h with h1 | h1
          · exact .inl (.inr ⟨r', c', h1, hc⟩)
          · exact .inr ⟨r', c', h1, by rw [(hfb1 r' c').2 (hdisj r' c' h1)]; exact hc⟩

/-- A covered cell is a hit cell, in the words of `Covers`. -/
theorem covers_iff (px py : Byte) (sprite : List Byte) (r : Fin 32) (c : Fin 64) :
    Covers px py sprite r c ↔ HitsRows py.toNat px.toNat sprite r.val c.val := by
  simp only [Covers, HitsRows, Nat.mod_eq_of_lt r.isLt, Nat.mod_eq_of_lt c.isLt]

theorem Framebuffer.cell_fin (fb : Framebuffer) (r : Fin 32) (c : Fin 64) : fb.cell r.val c.val = fb[r][c] := by
  simp only [Framebuffer.cell, Nat.mod_eq_of_lt r.isLt, Nat.mod_eq_of_lt c.isLt]; rfl

/-- Drawing a sprite of at most 32 rows: a covered cell is inverted, every other is unchanged, and the collision flag is
raised exactly if a covered cell was on. -/
theorem Framebuffer.drawSprite_spec (fb : Framebuffer) (px py : Byte) (sprite : List Byte) (hlen : sprite.length ≤ 32) :
    (∀ (r : Fin 32) (c : Fin 64),
      (Covers px py sprite r c → (fb.drawSprite px py sprite).fb[r][c] = !fb[r][c]) ∧
      (¬Covers px py sprite r c → (fb.drawSprite px py sprite).fb[r][c] = fb[r][c])) ∧
    ((fb.drawSprite px py sprite).collision = true ↔
      ∃ (r : Fin 32) (c : Fin 64), Covers px py sprite r c ∧ fb[r][c] = true) := by
  obtain ⟨hfb, hc⟩ := Canvas.drawRows_spec sprite py.toNat px.toNat { fb := fb, collision := false } hlen
  refine ⟨fun r c => ?_, ?_⟩
  · rw [covers_iff, ← Framebuffer.cell_fin, ← Framebuffer.cell_fin]
    exact hfb r.val c.val
  · rw [Framebuffer.drawSprite, hc]
    simp only [Bool.false_eq_true, false_or]
    constructor
    · rintro ⟨r', c', h, hon⟩
      refine ⟨⟨r' % 32, Nat.mod_lt _ (by decide)⟩, ⟨c' % 64, Nat.mod_lt _ (by decide)⟩, ?_, hon⟩
      rw [covers_iff]
      simpa [HitsRows] using h
    · rintro ⟨r, c, h, hon⟩
      exact ⟨r.val, c.val, (covers_iff ..).mp h, by rw [Framebuffer.cell_fin]; exact hon⟩

end Sys2Proof.Machine
end

