-- ==== Sys2Proof/Laws/Interface.lean ====
section
/-! SUPPORT. The laws of startup and of the ports: the checks as plain conditions, what a load can do, and that
`State.reset` is a construction. -/

namespace Sys2Proof.Machine

theorem imageFits_iff (image : List Byte) : imageFits image = true ↔ image.length ≤ 3584 := decide_eq_true_iff

theorem Startup.wf_iff (p : Startup) : p.wf = true ↔ p.fontTable.length = 80 ∧ Memory.wf p.initMem = true := by
  unfold Startup.wf
  rw [Bool.and_eq_true]
  exact and_congr_left' decide_eq_true_iff

/-- Memory after a construction: the font at its place, and the startup memory around it. -/
theorem State.read_construct (p : Startup) (hp : p.wf = true) (a : Nat) : Memory.read (State.construct p).mem a =
    if 0x50 ≤ a ∧ a < 0xA0 then p.fontTable.getD (a - 0x50) 0 else Memory.read p.initMem a := by
  rw [State.construct, Memory.read_writeBytes, ((Startup.wf_iff p).mp hp).1]
  rfl

theorem State.wf_construct (p : Startup) (hp : p.wf = true) : Memory.wf (State.construct p).mem = true := by
  obtain ⟨hf, hm⟩ := (Startup.wf_iff p).mp hp
  exact Memory.wf_writeBytes _ _ _ hm (by rw [hf]; decide)

/-- The startup parameters that logs 1 to 5 and 7 name. -/
def Startup.named : Startup where
  initV := Vector.replicate 16 0
  initDt := 0
  initSt := 0
  initFb := Framebuffer.blank
  initMem := []
  fontTable := Config.font
  initKeys := Vector.replicate 16 false

/-- The reset state is the construction with the named parameters. -/
theorem State.reset_eq_construct : State.reset = State.construct Startup.named := by
  have h : Memory.writeBytes [] Config.fontBase Config.font = [] := by decide
  simp only [State.construct, Startup.named, h]
  rfl

/-- What a load can do: write the image, halt on an image that is too long, or be refused. -/
theorem load_cases (image : List Byte) (s : State) :
    (s.loadOpen = true ∧ s.status = .running ∧ image.length ≤ 3584 ∧
      load image s = .next (s.closeLoad.setMem (Memory.writeBytes s.mem 0x200 image))) ∨
    (s.loadOpen = true ∧ s.status = .running ∧ 3584 < image.length ∧
      load image s = .next (s.closeLoad.raiseFatal .loadSize)) ∨
    ((s.loadOpen = false ∨ s.status ≠ .running) ∧ load image s = .refused .loadNotAllowed) := by
  unfold load
  split
  · rename_i h
    by_cases hi : imageFits image = true
    · exact .inl ⟨h.1, h.2, (imageFits_iff image).mp hi, by rw [if_pos hi]; rfl⟩
    · exact .inr (.inl ⟨h.1, h.2, by rw [imageFits_iff] at hi; omega, by rw [if_neg hi]⟩)
  · rename_i h
    refine .inr (.inr ⟨?_, rfl⟩)
    by_cases h1 : s.loadOpen = true
    · exact .inr fun h2 => h ⟨h1, h2⟩
    · exact .inl (by simpa using h1)

end Sys2Proof.Machine
end

