-- ==== Sys2Proof/Laws/PerInstr.lean ====
section
/-! SUPPORT. Statements about every instruction as syntax, one lemma for each constructor (LAWS.json). -/

namespace Sys2Proof.Laws.Encoding

/-- The word of an instruction has the fixed bits of its row in spec/opcode_table.json, and its operands fit their
fields (spec/30_encoding.md R41, R42, R45). -/
def Statement (i : Instr) : Prop :=
  i.wf = true ∧ ∀ f ∈ fixedBits i, bits (encodeWord i) f.1 f.2.1 = f.2.2

theorem xkk_fits (x : Reg) (kk : Byte) : operandsFit [(x.val, 4), (kk.toNat, 8)] = true := by
  have := x.isLt
  have := kk.isLt
  simp only [operandsFit, List.all_cons, List.all_nil, Bool.and_true, Bool.and_eq_true, decide_eq_true_eq]
  omega

theorem addr_fits (nnn : Addr) : operandsFit [(nnn.toNat, 12)] = true := by
  have := nnn.isLt
  simp only [operandsFit, List.all_cons, List.all_nil, Bool.and_true, decide_eq_true_eq]
  omega

theorem xy_fits (x y : Reg) : operandsFit [(x.val, 4), (y.val, 4)] = true := by
  simp [operandsFit]

theorem xyn_fits (x y : Reg) (n : Fin 16) : operandsFit [(x.val, 4), (y.val, 4), (n.val, 4)] = true := by
  simp [operandsFit]

theorem x_fits (x : Reg) : operandsFit [(x.val, 4)] = true := by
  simp [operandsFit]

theorem cls : Statement .cls := by
  refine ⟨rfl, ?_⟩
  simp [fixedBits, bits, encodeWord, encodeNat]

theorem ret : Statement .ret := by
  refine ⟨rfl, ?_⟩
  simp [fixedBits, bits, encodeWord, encodeNat]

theorem jp (nnn : Addr) : Statement (.jp nnn) := by
  refine ⟨addr_fits nnn, ?_⟩
  have := nnn.isLt
  simp [fixedBits, bits, encodeWord, encodeNat, codeADDR]
  omega

theorem call (nnn : Addr) : Statement (.call nnn) := by
  refine ⟨addr_fits nnn, ?_⟩
  have := nnn.isLt
  simp [fixedBits, bits, encodeWord, encodeNat, codeADDR]
  omega

theorem seImm (x : Reg) (kk : Byte) : Statement (.seImm x kk) := by
  refine ⟨xkk_fits x kk, ?_⟩
  have := x.isLt
  have := kk.isLt
  simp [fixedBits, bits, encodeWord, encodeNat, codeXKK]
  omega

theorem sneImm (x : Reg) (kk : Byte) : Statement (.sneImm x kk) := by
  refine ⟨xkk_fits x kk, ?_⟩
  have := x.isLt
  have := kk.isLt
  simp [fixedBits, bits, encodeWord, encodeNat, codeXKK]
  omega

theorem seReg (x y : Reg) : Statement (.seReg x y) := by
  refine ⟨xy_fits x y, ?_⟩
  have := x.isLt
  have := y.isLt
  simp [fixedBits, bits, encodeWord, encodeNat, codeXYN]
  omega

theorem ldImm (x : Reg) (kk : Byte) : Statement (.ldImm x kk) := by
  refine ⟨xkk_fits x kk, ?_⟩
  have := x.isLt
  have := kk.isLt
  simp [fixedBits, bits, encodeWord, encodeNat, codeXKK]
  omega

theorem addImm (x : Reg) (kk : Byte) : Statement (.addImm x kk) := by
  refine ⟨xkk_fits x kk, ?_⟩
  have := x.isLt
  have := kk.isLt
  simp [fixedBits, bits, encodeWord, encodeNat, codeXKK]
  omega

theorem ldReg (x y : Reg) : Statement (.ldReg x y) := by
  refine ⟨xy_fits x y, ?_⟩
  have := x.isLt
  have := y.isLt
  simp [fixedBits, bits, encodeWord, encodeNat, codeXYN]
  omega

theorem orReg (x y : Reg) : Statement (.orReg x y) := by
  refine ⟨xy_fits x y, ?_⟩
  have := x.isLt
  have := y.isLt
  simp [fixedBits, bits, encodeWord, encodeNat, codeXYN]
  omega

theorem andReg (x y : Reg) : Statement (.andReg x y) := by
  refine ⟨xy_fits x y, ?_⟩
  have := x.isLt
  have := y.isLt
  simp [fixedBits, bits, encodeWord, encodeNat, codeXYN]
  omega

theorem xorReg (x y : Reg) : Statement (.xorReg x y) := by
  refine ⟨xy_fits x y, ?_⟩
  have := x.isLt
  have := y.isLt
  simp [fixedBits, bits, encodeWord, encodeNat, codeXYN]
  omega

theorem addReg (x y : Reg) : Statement (.addReg x y) := by
  refine ⟨xy_fits x y, ?_⟩
  have := x.isLt
  have := y.isLt
  simp [fixedBits, bits, encodeWord, encodeNat, codeXYN]
  omega

theorem sub (x y : Reg) : Statement (.sub x y) := by
  refine ⟨xy_fits x y, ?_⟩
  have := x.isLt
  have := y.isLt
  simp [fixedBits, bits, encodeWord, encodeNat, codeXYN]
  omega

theorem shr (x y : Reg) : Statement (.shr x y) := by
  refine ⟨xy_fits x y, ?_⟩
  have := x.isLt
  have := y.isLt
  simp [fixedBits, bits, encodeWord, encodeNat, codeXYN]
  omega

theorem subn (x y : Reg) : Statement (.subn x y) := by
  refine ⟨xy_fits x y, ?_⟩
  have := x.isLt
  have := y.isLt
  simp [fixedBits, bits, encodeWord, encodeNat, codeXYN]
  omega

theorem shl (x y : Reg) : Statement (.shl x y) := by
  refine ⟨xy_fits x y, ?_⟩
  have := x.isLt
  have := y.isLt
  simp [fixedBits, bits, encodeWord, encodeNat, codeXYN]
  omega

theorem sneReg (x y : Reg) : Statement (.sneReg x y) := by
  refine ⟨xy_fits x y, ?_⟩
  have := x.isLt
  have := y.isLt
  simp [fixedBits, bits, encodeWord, encodeNat, codeXYN]
  omega

theorem ldI (nnn : Addr) : Statement (.ldI nnn) := by
  refine ⟨addr_fits nnn, ?_⟩
  have := nnn.isLt
  simp [fixedBits, bits, encodeWord, encodeNat, codeADDR]
  omega

theorem jpV0 (nnn : Addr) : Statement (.jpV0 nnn) := by
  refine ⟨addr_fits nnn, ?_⟩
  have := nnn.isLt
  simp [fixedBits, bits, encodeWord, encodeNat, codeADDR]
  omega

theorem rnd (x : Reg) (kk : Byte) : Statement (.rnd x kk) := by
  refine ⟨xkk_fits x kk, ?_⟩
  have := x.isLt
  have := kk.isLt
  simp [fixedBits, bits, encodeWord, encodeNat, codeXKK]
  omega

theorem drw (x y : Reg) (n : Fin 16) : Statement (.drw x y n) := by
  refine ⟨xyn_fits x y n, ?_⟩
  have := x.isLt
  have := y.isLt
  have := n.isLt
  simp [fixedBits, bits, encodeWord, encodeNat, codeXYN]
  omega

theorem skp (x : Reg) : Statement (.skp x) := by
  refine ⟨x_fits x, ?_⟩
  have := x.isLt
  simp [fixedBits, bits, encodeWord, encodeNat, codeXOP]
  omega

theorem sknp (x : Reg) : Statement (.sknp x) := by
  refine ⟨x_fits x, ?_⟩
  have := x.isLt
  simp [fixedBits, bits, encodeWord, encodeNat, codeXOP]
  omega

theorem ldVxDt (x : Reg) : Statement (.ldVxDt x) := by
  refine ⟨x_fits x, ?_⟩
  have := x.isLt
  simp [fixedBits, bits, encodeWord, encodeNat, codeXOP]
  omega

theorem ldVxK (x : Reg) : Statement (.ldVxK x) := by
  refine ⟨x_fits x, ?_⟩
  have := x.isLt
  simp [fixedBits, bits, encodeWord, encodeNat, codeXOP]
  omega

theorem ldDtVx (x : Reg) : Statement (.ldDtVx x) := by
  refine ⟨x_fits x, ?_⟩
  have := x.isLt
  simp [fixedBits, bits, encodeWord, encodeNat, codeXOP]
  omega

theorem ldStVx (x : Reg) : Statement (.ldStVx x) := by
  refine ⟨x_fits x, ?_⟩
  have := x.isLt
  simp [fixedBits, bits, encodeWord, encodeNat, codeXOP]
  omega

theorem addIVx (x : Reg) : Statement (.addIVx x) := by
  refine ⟨x_fits x, ?_⟩
  have := x.isLt
  simp [fixedBits, bits, encodeWord, encodeNat, codeXOP]
  omega

theorem ldFVx (x : Reg) : Statement (.ldFVx x) := by
  refine ⟨x_fits x, ?_⟩
  have := x.isLt
  simp [fixedBits, bits, encodeWord, encodeNat, codeXOP]
  omega

theorem ldBVx (x : Reg) : Statement (.ldBVx x) := by
  refine ⟨x_fits x, ?_⟩
  have := x.isLt
  simp [fixedBits, bits, encodeWord, encodeNat, codeXOP]
  omega

theorem ldMemVx (x : Reg) : Statement (.ldMemVx x) := by
  refine ⟨x_fits x, ?_⟩
  have := x.isLt
  simp [fixedBits, bits, encodeWord, encodeNat, codeXOP]
  omega

theorem ldVxMem (x : Reg) : Statement (.ldVxMem x) := by
  refine ⟨x_fits x, ?_⟩
  have := x.isLt
  simp [fixedBits, bits, encodeWord, encodeNat, codeXOP]
  omega

end Sys2Proof.Laws.Encoding
end

