-- ==== Sys2Proof/Tests/Slice0.lean ====
section
/-! SUPPORT. The model's own tests: the well-formedness smoke tests, one word for each instruction written bit by bit from
spec/30_encoding.md R42 and R45, one-cycle vectors of spec/95_test_vectors.md (named by their number there), and for each
statement of Certificates/Slice0/Obligations.lean that has hypotheses a witness that meets them. -/

namespace Sys2Proof.Tests

open Sys2Proof.Machine

/-! ## Helpers -/

/-- The reset state with some registers set. -/
def regs (l : List (Reg × Byte)) : State := l.foldl (fun s p => s.setV p.1 p.2) State.reset

/-- Bytes put into memory from an address on. -/
def poke (a : Nat) (bs : List Byte) (s : State) : State := s.setMem (Memory.writeBytes s.mem a bs)

/-- Some keys pressed. -/
def press (l : List (Fin 16)) (s : State) : State := l.foldl (fun s k => keySet k true s) s

/-- A machine whose call stack holds n addresses, each of them a. -/
def stacked (n : Fin 17) (a : Word) : State := State.reset.setStack (Vector.replicate 16 a) n

/-- The outcome is a next state with a property. -/
def nextIs (o : Host.Outcome State Fault Refusal) (p : State → Bool) : Bool :=
  match o with
  | .next t => p t
  | .fault _ => false
  | .refused _ => false

/-- One cycle of s with the word w placed at pc. -/
def cycled (w : Word) (s : State) (p : State → Bool) : Bool := nextIs (step (s.placeWord w)) p

/-- The cells of one framebuffer row that are on. -/
def onCells (r : Nat) (s : State) : List Nat := (List.range 64).filter fun c => s.fb.cell r c

/-- The status after a fatal error. -/
def halted (kind : FatalKind) (s : State) : Bool := s.status = .halted kind

/-- Whether a cycle of s executes the word w and leaves the machine running. -/
def ranB (s : State) (w : Word) : Bool :=
  decide (s.status = .running ∧ s.pc.toNat + 1 ≤ 4095 ∧
    wordOfBytes (Memory.read s.mem s.pc.toNat) (Memory.read s.mem (s.pc.toNat + 1)) = w) &&
  nextIs (step s) fun t => t.status = .running

theorem ran_of_ranB (s : State) (w : Word) (h : ranB s w = true) : ∃ t, Ran s w t := by
  unfold ranB nextIs at h
  rw [Bool.and_eq_true] at h
  obtain ⟨h1, h2⟩ := h
  have hw := of_decide_eq_true h1
  split at h2
  · rename_i t ht
    exact ⟨t, hw, ht, of_decide_eq_true h2⟩
  · cases h2
  · cases h2

theorem next_of_nextIs (o : Host.Outcome State Fault Refusal) (p : State → Bool) (h : nextIs o p = true) :
    ∃ t, o = .next t := by
  cases o with
  | next t => exact ⟨t, rfl⟩
  | fault r => cases h
  | refused r => cases h

theorem next_eq_of_nextIs (o : Host.Outcome State Fault Refusal) (u : State)
    (h : nextIs o (fun t => decide (t = u)) = true) : o = .next u := by
  obtain ⟨t, rfl⟩ := next_of_nextIs o _ h
  exact congrArg _ (of_decide_eq_true h)

/-! ## Well-formedness -/

/-- A register number of 16 does not fit 4 bits (R12). -/
theorem test_wf_register_16 : operandsFit [(16, 4)] = false := by decide
/-- A byte of 256 does not fit 8 bits. -/
theorem test_wf_byte_256 : operandsFit [(3, 4), (256, 8)] = false := by decide
/-- An address of 4096 does not fit 12 bits. -/
theorem test_wf_address_4096 : operandsFit [(4096, 12)] = false := by decide
/-- A sprite of 16 rows does not fit 4 bits. -/
theorem test_wf_sprite_16 : operandsFit [(1, 4), (2, 4), (16, 4)] = false := by decide
/-- The largest operands fit. -/
theorem test_wf_largest : (Instr.drw 15 15 15).wf = true ∧ (Instr.jp 0xFFF).wf = true := by decide
/-- S10: 3585 bytes are refused, 3584 are not. -/
theorem test_wf_image : imageFits (List.replicate 3585 0) = false ∧ imageFits (List.replicate 3584 0) = true :=
  ⟨decide_eq_false (by rw [List.length_replicate]; decide), decide_eq_true (by rw [List.length_replicate]; decide)⟩
/-- A font of 79 bytes is refused. -/
theorem test_wf_font : Startup.wf { Startup.named with fontTable := List.replicate 79 0 } = false := by decide
/-- Memory out of order, with an address past 4095, or with a byte that need not be listed is refused. -/
theorem test_wf_memory :
    Startup.wf { Startup.named with initMem := [(5, 1), (4, 1)] } = false ∧
    Startup.wf { Startup.named with initMem := [(4096, 1)] } = false ∧
    Startup.wf { Startup.named with initMem := [(5, 0)] } = false := by decide

/-! ## Decoding: each word's bits written out from its pattern in R45 -/

theorem decode_cls : decodeTableWord 16 0b0000_0000_1110_0000 = some .cls := by decide
theorem decode_ret : decodeTableWord 16 0b0000_0000_1110_1110 = some .ret := by decide
theorem decode_jp : decodeTableWord 16 0b0001_1010_1011_1100 = some (.jp 0xABC) := by decide
theorem decode_call : decodeTableWord 16 0b0010_0001_0010_0011 = some (.call 0x123) := by decide
theorem decode_seImm : decodeTableWord 16 0b0011_0111_1110_0001 = some (.seImm 7 0xE1) := by decide
theorem decode_sneImm : decodeTableWord 16 0b0100_0111_0001_1110 = some (.sneImm 7 0x1E) := by decide
theorem decode_seReg : decodeTableWord 16 0b0101_0010_1001_0000 = some (.seReg 2 9) := by decide
theorem decode_ldImm : decodeTableWord 16 0b0110_1010_0111_1011 = some (.ldImm 10 0x7B) := by decide
theorem decode_addImm : decodeTableWord 16 0b0111_0010_0000_0001 = some (.addImm 2 0x01) := by decide
theorem decode_ldReg : decodeTableWord 16 0b1000_0001_1101_0000 = some (.ldReg 1 13) := by decide
theorem decode_orReg : decodeTableWord 16 0b1000_0001_1101_0001 = some (.orReg 1 13) := by decide
theorem decode_andReg : decodeTableWord 16 0b1000_0001_1101_0010 = some (.andReg 1 13) := by decide
theorem decode_xorReg : decodeTableWord 16 0b1000_0001_1101_0011 = some (.xorReg 1 13) := by decide
theorem decode_addReg : decodeTableWord 16 0b1000_0001_1101_0100 = some (.addReg 1 13) := by decide
theorem decode_sub : decodeTableWord 16 0b1000_0001_1101_0101 = some (.sub 1 13) := by decide
theorem decode_shr : decodeTableWord 16 0b1000_0001_1101_0110 = some (.shr 1 13) := by decide
theorem decode_subn : decodeTableWord 16 0b1000_0001_1101_0111 = some (.subn 1 13) := by decide
theorem decode_shl : decodeTableWord 16 0b1000_0001_1101_1110 = some (.shl 1 13) := by decide
theorem decode_sneReg : decodeTableWord 16 0b1001_0010_1001_0000 = some (.sneReg 2 9) := by decide
theorem decode_ldI : decodeTableWord 16 0b1010_0011_0000_1001 = some (.ldI 0x309) := by decide
theorem decode_jpV0 : decodeTableWord 16 0b1011_0011_0000_1001 = some (.jpV0 0x309) := by decide
theorem decode_rnd : decodeTableWord 16 0b1100_0011_0000_1111 = some (.rnd 3 0x0F) := by decide
theorem decode_drw : decodeTableWord 16 0b1101_0001_0010_0101 = some (.drw 1 2 5) := by decide
theorem decode_skp : decodeTableWord 16 0b1110_0110_1001_1110 = some (.skp 6) := by decide
theorem decode_sknp : decodeTableWord 16 0b1110_0110_1010_0001 = some (.sknp 6) := by decide
theorem decode_ldVxDt : decodeTableWord 16 0b1111_0110_0000_0111 = some (.ldVxDt 6) := by decide
theorem decode_ldVxK : decodeTableWord 16 0b1111_0110_0000_1010 = some (.ldVxK 6) := by decide
theorem decode_ldDtVx : decodeTableWord 16 0b1111_0110_0001_0101 = some (.ldDtVx 6) := by decide
theorem decode_ldStVx : decodeTableWord 16 0b1111_0110_0001_1000 = some (.ldStVx 6) := by decide
theorem decode_addIVx : decodeTableWord 16 0b1111_0110_0001_1110 = some (.addIVx 6) := by decide
theorem decode_ldFVx : decodeTableWord 16 0b1111_0110_0010_1001 = some (.ldFVx 6) := by decide
theorem decode_ldBVx : decodeTableWord 16 0b1111_0110_0011_0011 = some (.ldBVx 6) := by decide
theorem decode_ldMemVx : decodeTableWord 16 0b1111_0110_0101_0101 = some (.ldMemVx 6) := by decide
theorem decode_ldVxMem : decodeTableWord 16 0b1111_0110_0110_0101 = some (.ldVxMem 6) := by decide

/-- E2 to E9: the unknown words that the vectors list. -/
theorem decode_unknown : ∀ w ∈ [0x0000, 0x0123, 0x00E1, 0x5121, 0x9121, 0x8128, 0x8129, 0x812A, 0x812B, 0x812C, 0x812D,
    0x812F, 0xE19F, 0xE0A2, 0xE000, 0xF000, 0xF008, 0xF166, 0xFFFF], decodeTableWord 16 w = none := by decide
/-- One byte is no instruction word (R40). -/
theorem decode_one_byte : decode [0x12] = .error (.truncated 1) := by decide

/-! ## Fetch, unknown words and timers -/

/-- E1: the byte at the lower address is the high one, and the instruction placed at pc runs. -/
theorem test_E1 : nextIs (step (poke 0x200 [0x12, 0x34] State.reset)) (fun t => t.pc = 0x234) = true := by decide
/-- The first instruction after reset is the one that `withFetchWord` places. -/
theorem test_withFetchWord : nextIs (step (State.reset.withFetchWord 16 0x1234)) (fun t => t.pc = 0x234) = true := by
  decide
/-- E3: an unknown word is reported with its address. -/
theorem test_E3 : cycled 0x0123 State.reset
    (fun t => t.pc = 0x202 ∧ t.diag = [{ word := 0x0123, addr := 0x200 }] ∧ t.status = .running) = true := by decide
/-- E10: a cycle on an unknown word decrements the timers. -/
theorem test_E10 : cycled 0x5121 ((State.reset.setDt 3).setSt 1) (fun t => t.dt = 2 ∧ t.st = 0) = true := by decide
/-- E11: the last fetch of the address space. -/
theorem test_E11 : cycled 0x6001 (State.reset.setPc 0xFFE) (fun t => t.getV 0 = 1 ∧ t.pc = 0x1000) = true := by decide
/-- E13: the fetch from 0xFFF halts the machine, and a halted machine takes no step. -/
theorem test_E13 : nextIs (step (State.reset.setPc 0xFFF)) (halted .outOfBounds) = true := by decide
/-- K15: a timer at 0 stays at 0. -/
theorem test_K15 : cycled 0x6001 State.reset (fun t => t.dt = 0 ∧ t.st = 0) = true := by decide
/-- K16: no decrement in a fatal cycle. -/
theorem test_K16 : cycled 0x00EE ((State.reset.setDt 3).setSt 7)
    (fun t => halted .stackUnderflow t && (t.dt = 3 ∧ t.st = 7)) = true := by decide

/-! ## Load -/

/-- R4: a second load is refused. -/
theorem test_R4 : load [0x12, 0x00] State.reset.closeLoad = .refused .loadNotAllowed := rfl
/-- R5: the first cycle fetches the image's first word. -/
theorem test_R5 : nextIs (reactAll [.load [0x12, 0x34], .cycle] State.reset) (fun t => t.pc = 0x234) = true := by decide

/-! ## Display -/

/-- D1. -/
theorem test_D1 : cycled 0x00E0 ((regs [(15, 7)]).setFb (Framebuffer.blank.toggle 3 4))
    (fun t => t.fb = Framebuffer.blank ∧ t.getV 15 = 7) = true := by decide
/-- D4: a collision. -/
theorem test_D4 : cycled 0xD011 ((poke 0x300 [0xC0] (State.reset.setIndex 0x300)).setFb (Framebuffer.blank.toggle 0 0))
    (fun t => onCells 0 t = [1] ∧ t.getV 15 = 1) = true := by decide
/-- D5: the columns wrap. -/
theorem test_D5 : cycled 0xD011 (poke 0x300 [0xFF] ((regs [(0, 60)]).setIndex 0x300))
    (fun t => onCells 0 t = [0, 1, 2, 3, 60, 61, 62, 63] ∧ t.getV 15 = 0) = true := by decide

/-! ## Control transfer and skips -/

/-- F2: a jump to its own address. -/
theorem test_F2 : cycled 0x1200 State.reset (fun t => t.pc = 0x200) = true := by decide
/-- F3. -/
theorem test_F3 : cycled 0x2300 State.reset (fun t => t.stack[0] = 0x202 ∧ t.sp = 1 ∧ t.pc = 0x300) = true := by decide
/-- F4. -/
theorem test_F4 : cycled 0x2300 (stacked 16 0x206) (halted .stackOverflow) = true := by decide
/-- F5. -/
theorem test_F5 : cycled 0x00EE (stacked 1 0x206) (fun t => t.pc = 0x206 ∧ t.sp = 0) = true := by decide
/-- F7. -/
theorem test_F7 : cycled 0x3342 (regs [(3, 0x42)]) (fun t => t.pc = 0x204) = true := by decide
/-- F8. -/
theorem test_F8 : cycled 0x3342 (regs [(3, 0x41)]) (fun t => t.pc = 0x202) = true := by decide
/-- F9. -/
theorem test_F9 : cycled 0x4342 (regs [(3, 0x41)]) (fun t => t.pc = 0x204) = true := by decide
/-- F10. -/
theorem test_F10 : cycled 0x4342 (regs [(3, 0x42)]) (fun t => t.pc = 0x202) = true := by decide
/-- F11. -/
theorem test_F11 : cycled 0x5120 (regs [(1, 7), (2, 7)]) (fun t => t.pc = 0x204) = true := by decide
/-- F12, for 5xy0. -/
theorem test_F12_se : cycled 0x5120 (regs [(1, 7), (2, 8)]) (fun t => t.pc = 0x202) = true := by decide
/-- F12, for 9xy0. -/
theorem test_F12_sne : cycled 0x9120 (regs [(1, 7), (2, 8)]) (fun t => t.pc = 0x204) = true := by decide
/-- F18: the sum is not reduced. -/
theorem test_F18 : cycled 0xBFFF (regs [(0, 0xFF)]) (fun t => t.pc = 0x10FE) = true := by decide
/-- F19: V0 whatever bits 11..8 hold. -/
theorem test_F19 : cycled 0xB300 (regs [(0, 2), (3, 0x50)]) (fun t => t.pc = 0x302) = true := by decide

/-! ## Arithmetic and logic -/

/-- S1. -/
theorem test_S1 : cycled 0x6A7B State.reset (fun t => t.getV 10 = 0x7B) = true := by decide
/-- A2. -/
theorem test_A2 : cycled 0x71FF (regs [(1, 0x80), (15, 3)]) (fun t => t.getV 1 = 0x7F ∧ t.getV 15 = 3) = true := by
  decide
/-- A4. -/
theorem test_A4 : cycled 0x8150 (regs [(5, 0x12)]) (fun t => t.getV 1 = 0x12) = true := by decide
/-- A5. -/
theorem test_A5 : cycled 0x8121 (regs [(1, 0xF0), (2, 0x0F), (15, 5)])
    (fun t => t.getV 1 = 0xFF ∧ t.getV 15 = 5) = true := by decide
/-- A6. -/
theorem test_A6 : cycled 0x8122 (regs [(1, 0xF0), (2, 0x3C), (15, 5)])
    (fun t => t.getV 1 = 0x30 ∧ t.getV 15 = 5) = true := by decide
/-- A7. -/
theorem test_A7 : cycled 0x8123 (regs [(1, 0xF0), (2, 0x3C), (15, 5)])
    (fun t => t.getV 1 = 0xCC ∧ t.getV 15 = 5) = true := by decide
/-- A11: a sum of 255 does not carry. -/
theorem test_A11 : cycled 0x8124 (regs [(1, 127), (2, 128)]) (fun t => t.getV 1 = 255 ∧ t.getV 15 = 0) = true := by
  decide
/-- A13: the flag stays where x = 15. -/
theorem test_A13 : cycled 0x8F14 (regs [(15, 200), (1, 100)]) (fun t => t.getV 15 = 1) = true := by decide
/-- A15: equal operands give VF = 0. -/
theorem test_A15 : cycled 0x8125 (regs [(1, 5), (2, 5), (15, 9)]) (fun t => t.getV 1 = 0 ∧ t.getV 15 = 0) = true := by
  decide
/-- S4. -/
theorem test_S4 : cycled 0x8125 (regs [(1, 10), (2, 3)]) (fun t => t.getV 1 = 7 ∧ t.getV 15 = 1) = true := by decide
/-- A20. -/
theorem test_A20 : cycled 0x8127 (regs [(1, 10), (2, 3)]) (fun t => t.getV 1 = 249 ∧ t.getV 15 = 0) = true := by decide
/-- A19. -/
theorem test_A19 : cycled 0x8127 (regs [(1, 3), (2, 10)]) (fun t => t.getV 1 = 7 ∧ t.getV 15 = 1) = true := by decide
/-- A22: y is ignored. -/
theorem test_A22 : cycled 0x8456 (regs [(4, 5), (5, 0xAA)])
    (fun t => t.getV 4 = 2 ∧ t.getV 15 = 1 ∧ t.getV 5 = 0xAA) = true := by decide
/-- A24. -/
theorem test_A24 : cycled 0x8F06 (regs [(15, 3)]) (fun t => t.getV 15 = 1) = true := by decide
/-- A25. -/
theorem test_A25 : cycled 0x840E (regs [(4, 0x81)]) (fun t => t.getV 4 = 2 ∧ t.getV 15 = 1) = true := by decide
/-- A26. -/
theorem test_A26 : cycled 0x840E (regs [(4, 0x7F)]) (fun t => t.getV 4 = 0xFE ∧ t.getV 15 = 0) = true := by decide
/-- A29: one byte is drawn. -/
theorem test_A29 : cycled 0xC300 State.reset (fun t => t.randDraws = 1) = true := by decide

/-! ## Index register and memory -/

/-- M1. -/
theorem test_M1 : cycled 0xA300 State.reset (fun t => t.index = 0x300) = true := by decide
/-- M3. -/
theorem test_M3 : cycled 0xF21E ((regs [(2, 1)]).setIndex 0xFFFE) (fun t => t.index = 0xFFFF) = true := by decide
/-- M4. -/
theorem test_M4 : cycled 0xF21E ((regs [(2, 1)]).setIndex 0xFFFF) (halted .outOfBounds) = true := by decide
/-- M6. -/
theorem test_M6 : cycled 0xF729 (regs [(7, 15)]) (fun t => t.index = 0x9B) = true := by decide
/-- M7. -/
theorem test_M7 : cycled 0xF729 (regs [(7, 16)]) (halted .outOfBounds) = true := by decide
/-- M9: the last three cells. -/
theorem test_M9 : cycled 0xF433 ((regs [(4, 42)]).setIndex 0xFFD)
    (fun t => Memory.readBytes t.mem 0xFFD 3 = [0, 4, 2]) = true := by decide
/-- M10. -/
theorem test_M10 : cycled 0xF433 ((regs [(4, 42)]).setIndex 0xFFE) (halted .outOfBounds) = true := by decide
/-- M11. -/
theorem test_M11 : cycled 0xF055 ((regs [(0, 0xAB), (1, 0xCD)]).setIndex 0x300)
    (fun t => Memory.readBytes t.mem 0x300 2 = [0xAB, 0] ∧ t.index = 0x300) = true := by decide
/-- M13. -/
theorem test_M13 : cycled 0xFF55 (State.reset.setIndex 0xFF1) (halted .outOfBounds) = true := by decide
/-- M15. -/
theorem test_M15 : cycled 0xF165 (poke 0x300 [5, 6] ((regs [(2, 9)]).setIndex 0x300))
    (fun t => t.getV 0 = 5 ∧ t.getV 1 = 6 ∧ t.getV 2 = 9) = true := by decide
/-- M16. -/
theorem test_M16 : cycled 0xFF65 (State.reset.setIndex 0xFF1) (halted .outOfBounds) = true := by decide

/-! ## Keys and timers -/

/-- K1, for Ex9E. -/
theorem test_K1_skp : cycled 0xE19E (press [5] (regs [(1, 5)])) (fun t => t.pc = 0x204) = true := by decide
/-- K3. -/
theorem test_K3 : cycled 0xE19E (regs [(1, 16)]) (halted .outOfBounds) = true := by decide
/-- K1, for ExA1. -/
theorem test_K1_sknp : cycled 0xE1A1 (press [5] (regs [(1, 5)])) (fun t => t.pc = 0x202) = true := by decide
/-- K2, for ExA1. -/
theorem test_K2_sknp : cycled 0xE1A1 (regs [(1, 5)]) (fun t => t.pc = 0x204) = true := by decide
/-- K5. -/
theorem test_K5 : cycled 0xF107 (State.reset.setDt 4) (fun t => t.getV 1 = 4 ∧ t.dt = 3) = true := by decide
/-- K7. -/
theorem test_K7 : cycled 0xF20A ((regs [(2, 9)]).setDt 2) (fun t => t.pc = 0x200 ∧ t.getV 2 = 9 ∧ t.dt = 1) = true := by
  decide
/-- K8. -/
theorem test_K8 : cycled 0xF20A (press [10, 3] State.reset) (fun t => t.getV 2 = 3 ∧ t.pc = 0x202) = true := by decide
/-- K11. -/
theorem test_K11 : cycled 0xF015 (regs [(0, 5)]) (fun t => t.dt = 4) = true := by decide
/-- K14. -/
theorem test_K14 : cycled 0xF018 (regs [(0, 200)]) (fun t => t.st = 199) = true := by decide

/-! ## Witnesses: states and operands that meet the hypotheses of the statements, at the ends of their ranges -/

/-- Startup parameters that differ from the named ones in every field. -/
def otherStartup : Startup where
  initV := Vector.replicate 16 0xFF
  initDt := 0xFF
  initSt := 1
  initFb := Framebuffer.blank.toggle 31 63
  initMem := [(0x4F, 1), (0xA0, 2), (4095, 3)]
  fontTable := List.replicate 80 0xAA
  initKeys := Vector.replicate 16 true

theorem witness_ConstructedStateHasStartupValues :
    otherStartup.wf = true ∧ 0 < 80 ∧ 79 < 80 ∧ (0x4F < 0x50 ∨ 0xA0 ≤ 0x4F) ∧ (0xA0 < 0x50 ∨ 0xA0 ≤ 0xA0) := by decide

theorem witness_LoadWritesImageOrHalts :
    (State.reset.loadOpen = true ∧ State.reset.status = .running ∧ (List.replicate 3584 (1 : Byte)).length ≤ 3584 ∧
      0 < (List.replicate 3584 (1 : Byte)).length ∧ 3583 < (List.replicate 3584 (1 : Byte)).length) ∧
    3584 < (List.replicate 3585 (1 : Byte)).length ∧
    State.reset.closeLoad.loadOpen = false ∧ (State.reset.raiseFatal .loadSize).status ≠ .running := by
  simp only [List.length_replicate]
  decide

theorem witness_StepKeepsInvariant :
    (State.reset.Inv ∧ ∃ t, step State.reset = .next t) ∧
    (((stacked 16 0x1002).setPc 0x10FE).Inv ∧ ∃ t, step ((stacked 16 0x1002).setPc 0x10FE) = .next t) := by
  unfold State.Inv
  exact ⟨⟨by decide, next_of_nextIs _ (fun _ => true) (by decide)⟩,
    ⟨by decide, next_of_nextIs _ (fun _ => true) (by decide)⟩⟩

theorem witness_EveryRunKeepsInvariant :
    Startup.named.wf = true ∧ ∃ t, reactAll [.keySet 3 true, .load [0xF5, 0x0A, 0x12, 0x02], .cycle, .cycle]
      (State.construct Startup.named) = .next t := by
  rw [← State.reset_eq_construct]
  exact ⟨by decide, next_of_nextIs _ (fun _ => true) (by decide)⟩

theorem witness_EncodeOfDecodeIsIdentity : decodeWord 0xFF65 = .ok (.ldVxMem 15) := by decide

theorem witness_StepRunsDecodedInstruction :
    (∃ s i t, State.AtWord 0x6001 s ∧ decodeWord 0x6001 = .ok i ∧ exec i (s.closeLoad.setPc (s.pc + 2)) = .next t ∧
      t.status = .running ∧ s.pc.toNat + 1 = 4095) ∧
    (∃ s i t, State.AtWord 0x00EE s ∧ decodeWord 0x00EE = .ok i ∧ exec i (s.closeLoad.setPc (s.pc + 2)) = .next t ∧
      t.status = .halted .stackUnderflow) := by
  unfold State.AtWord
  exact ⟨⟨(State.reset.setPc 4094).placeWord 0x6001, .ldImm 0 1, _, by decide, by decide, rfl, rfl, rfl⟩,
    ⟨State.reset.placeWord 0x00EE, .ret, _, by decide, by decide, rfl, rfl⟩⟩

theorem witness_FetchPastTheEndHalts :
    ((State.reset.setPc 4095).status = .running ∧ 4095 ≤ (State.reset.setPc 4095).pc.toNat) ∧
    ((State.reset.setPc 0xFFFF).status = .running ∧ 4095 ≤ (State.reset.setPc 0xFFFF).pc.toNat) := by decide

theorem witness_StepStopsExactlyWhenHalted :
    State.reset.status = .running ∧ (State.reset.raiseFatal .outOfBounds).status = .halted .outOfBounds := by decide

theorem witness_UnknownWordIsReportedAndSkipped :
    (State.reset.placeWord 0x0123).AtWord 0x0123 ∧ decodeWord 0x0123 = .error (.unknown 0x0123) := by
  unfold State.AtWord
  decide

theorem witness_TimersCountDownEveryCycle :
    (∃ s t, Ran s 0x6001 t ∧ s.dt = 0xFF ∧ s.st = 0) ∧
    ((∀ x, decodeWord 0x6001 ≠ .ok (.ldDtVx x)) ∧ ∀ x, decodeWord 0x6001 ≠ .ok (.ldStVx x)) ∧
    (∃ s t, Ran s 0xF015 t) ∧ (∀ x, decodeWord 0xF015 ≠ .ok (.ldStVx x)) ∧
    (∃ s t, Ran s 0xF018 t) ∧ ∀ x, decodeWord 0xF018 ≠ .ok (.ldDtVx x) := by
  obtain ⟨t, h⟩ := ran_of_ranB ((State.reset.setDt 0xFF).placeWord 0x6001) 0x6001 (by decide)
  exact ⟨⟨_, t, h, rfl, rfl⟩, by decide, ⟨_, ran_of_ranB (State.reset.placeWord 0xF015) _ (by decide)⟩, by decide,
    ⟨_, ran_of_ranB (State.reset.placeWord 0xF018) _ (by decide)⟩, by decide⟩

/-- Two cycles, an Fx18 and an unknown word, and no cycle at all. -/
theorem witness_DelayTimerAfterManyCycles :
    DelayUntouched 2 ((State.reset.setDt 1).placeWord 0xF018) ∧ DelayUntouched 0 State.reset := by
  have h1 : State.AtWord 0xF018 ((State.reset.setDt 1).placeWord 0xF018) := by unfold State.AtWord; decide
  have h2 := next_eq_of_nextIs (step ((State.reset.setDt 1).placeWord 0xF018))
    (((State.reset.placeWord 0xF018).setPc 0x202).closeLoad) (by decide)
  obtain ⟨u, hu⟩ := ran_of_ranB ((State.reset.placeWord 0xF018).setPc 0x202).closeLoad 0x0000 (by decide)
  exact ⟨⟨0xF018, _, ⟨h1, h2, rfl⟩, by decide, 0x0000, u, hu, by decide, trivial⟩, trivial⟩

theorem witness_PcChangesOnlyAsListed :
    (∃ s t, Ran s 0x00EE t ∧ s.sp.val = (15 : Fin 16).val + 1) ∧ (∃ s t, Ran s 0x00EE t ∧ s.sp.val = (0 : Fin 16).val + 1) ∧
    (∃ s t, Ran s 0x1FFF t) ∧ (∃ s t, Ran s 0x2FFF t) ∧ (∃ s t, Ran s 0xBFFF t) ∧ (∃ s t, Ran s 0x3000 t) ∧
    (∃ s t, Ran s 0x4000 t) ∧ (∃ s t, Ran s 0x5010 t) ∧ (∃ s t, Ran s 0x9010 t) ∧ (∃ s t, Ran s 0xE09E t) ∧
    (∃ s t, Ran s 0xE0A1 t) ∧ (∃ s t, Ran s 0xF00A t) ∧ (∃ s t, Ran s 0x6001 t) ∧ ∃ s t, Ran s 0xFFFF t := by
  obtain ⟨t, ht⟩ := ran_of_ranB ((stacked 16 0x206).placeWord 0x00EE) 0x00EE (by decide)
  obtain ⟨u, hu⟩ := ran_of_ranB ((stacked 1 0x206).placeWord 0x00EE) 0x00EE (by decide)
  exact ⟨⟨_, t, ht, rfl⟩, ⟨_, u, hu, rfl⟩,
    ⟨_, ran_of_ranB (State.reset.placeWord 0x1FFF) _ (by decide)⟩,
    ⟨_, ran_of_ranB (State.reset.placeWord 0x2FFF) _ (by decide)⟩,
    ⟨_, ran_of_ranB (State.reset.placeWord 0xBFFF) _ (by decide)⟩,
    ⟨_, ran_of_ranB (State.reset.placeWord 0x3000) _ (by decide)⟩,
    ⟨_, ran_of_ranB (State.reset.placeWord 0x4000) _ (by decide)⟩,
    ⟨_, ran_of_ranB (State.reset.placeWord 0x5010) _ (by decide)⟩,
    ⟨_, ran_of_ranB (State.reset.placeWord 0x9010) _ (by decide)⟩,
    ⟨_, ran_of_ranB (State.reset.placeWord 0xE09E) _ (by decide)⟩,
    ⟨_, ran_of_ranB (State.reset.placeWord 0xE0A1) _ (by decide)⟩,
    ⟨_, ran_of_ranB (State.reset.placeWord 0xF00A) _ (by decide)⟩,
    ⟨_, ran_of_ranB (State.reset.placeWord 0x6001) _ (by decide)⟩,
    ⟨_, ran_of_ranB (State.reset.placeWord 0xFFFF) _ (by decide)⟩⟩

theorem witness_FramebufferWrittenOnlyByDisplay :
    (∃ s t, Ran s 0xFF55 t ∧ s.fb ≠ Framebuffer.blank) ∧ decodeWord 0xFF55 = .ok (.ldMemVx 15) := by
  obtain ⟨t, h⟩ := ran_of_ranB
    (((State.reset.setIndex 0x300).setFb (Framebuffer.blank.toggle 31 63)).placeWord 0xFF55) 0xFF55 (by decide)
  exact ⟨⟨_, t, h, by decide⟩, by decide⟩

theorem witness_MemoryWrittenOnlyByStores :
    (∃ s t, Ran s 0xD01F t) ∧ (∀ x, decodeWord 0xD01F ≠ .ok (.ldBVx x)) ∧ ∀ x, decodeWord 0xD01F ≠ .ok (.ldMemVx x) :=
  ⟨⟨_, ran_of_ranB (State.reset.placeWord 0xD01F) _ (by decide)⟩, by decide, by decide⟩

theorem witness_IndexWrittenOnlyByThree :
    (∃ s t, Ran s 0xF065 t) ∧ (∀ nnn, decodeWord 0xF065 ≠ .ok (.ldI nnn)) ∧
    (∀ x, decodeWord 0xF065 ≠ .ok (.addIVx x)) ∧ ∀ x, decodeWord 0xF065 ≠ .ok (.ldFVx x) :=
  ⟨⟨_, ran_of_ranB (State.reset.placeWord 0xF065) _ (by decide)⟩,
    fun _ => by rw [show decodeWord 0xF065 = .ok (.ldVxMem 0) by decide]; simp, by decide, by decide⟩

theorem witness_StackChangedOnlyByCallAndReturn :
    (∃ s t, Ran s 0x1200 t) ∧ decodeWord 0x1200 ≠ .ok .ret ∧ ∀ nnn, decodeWord 0x1200 ≠ .ok (.call nnn) :=
  ⟨⟨_, ran_of_ranB ((stacked 16 0x206).placeWord 0x1200) _ (by decide)⟩, by decide,
    fun _ => by rw [show decodeWord 0x1200 = .ok (.jp 0x200) by decide]; simp⟩

theorem witness_CoreNeverWritesKeys : ∃ t, step ((press [0, 15] State.reset).placeWord 0xF00A) = .next t :=
  next_of_nextIs _ (fun _ => true) (by decide)

theorem witness_VFWrittenOnlyAsFlagOrDestination :
    ((∃ s t, Ran s 0x8124 t) ∧ decodeWord 0x8124 = .ok (.addReg 1 2) ∧ setsFlag (.addReg 1 2) = true) ∧
    ((∃ s t, Ran s 0x7EFF t) ∧ decodeWord 0x7EFF = .ok (.addImm 14 0xFF) ∧ setsFlag (.addImm 14 0xFF) = false ∧
      namesVF (.addImm 14 0xFF) = false) :=
  ⟨⟨⟨_, ran_of_ranB ((regs [(15, 7)]).placeWord 0x8124) _ (by decide)⟩, by decide, rfl⟩,
    ⟨⟨_, ran_of_ranB ((regs [(15, 7)]).placeWord 0x7EFF) _ (by decide)⟩, by decide, rfl, rfl⟩⟩

theorem witness_OneDrawForEachRandomInstruction :
    ((∃ s t, Ran s 0xC000 t) ∧ ∃ x kk, decodeWord 0xC000 = .ok (.rnd x kk)) ∧
    ((∃ s t, Ran s 0xD010 t) ∧ ∀ x kk, decodeWord 0xD010 ≠ .ok (.rnd x kk)) :=
  ⟨⟨⟨_, ran_of_ranB (State.reset.placeWord 0xC000) _ (by decide)⟩, 0, 0, by decide⟩,
    ⟨⟨_, ran_of_ranB (State.reset.placeWord 0xD010) _ (by decide)⟩,
      fun _ _ => by rw [show decodeWord 0xD010 = .ok (.drw 0 1 0) by decide]; simp⟩⟩

/-- The two bounds for n = 15 and n = 0, a covered cell (by the wrap of both coordinates) and one that is not covered. -/
theorem witness_DrawSpriteInvertsCoveredCells :
    (State.reset.setIndex 4081).index.toNat + (15 : Fin 16).val ≤ 4096 ∧
    (State.reset.setIndex 4096).index.toNat + (0 : Fin 16).val ≤ 4096 ∧
    4096 < (State.reset.setIndex 4082).index.toNat + (15 : Fin 16).val ∧
    4096 < (State.reset.setIndex 4097).index.toNat + (0 : Fin 16).val ∧
    Covers 63 31 [0x00, 0x01] 0 6 ∧ ¬Covers 63 31 [0x00, 0x01] 31 63 := by
  refine ⟨by decide, by decide, by decide, by decide, ⟨1, 7, by decide, by decide, by decide, by decide, by decide⟩, ?_⟩
  rintro ⟨row, col, hr, hc, hb, hy, -⟩
  have h0 : row = 0 := by
    have : row < 2 := hr
    have : (31 + row) % 32 = 31 := hy
    omega
  subst h0
  have : ∀ c, c < 8 → spriteBit 0x00 c = false := by decide
  rw [show ([0x00, 0x01] : List Byte).getD 0 0 = 0x00 from rfl, this col hc] at hb
  cases hb

theorem witness_DrawingTwiceRestoresTheScreen :
    (14 : Reg) ≠ 15 ∧ (0 : Reg) ≠ 15 ∧ (State.reset.setIndex 4081).index.toNat + (15 : Fin 16).val ≤ 4096 := by decide

theorem witness_ReturnPopsTopAddress :
    (stacked 1 0x206).sp.val = (0 : Fin 16).val + 1 ∧ (stacked 16 0x206).sp.val = (15 : Fin 16).val + 1 ∧
    (stacked 0 0).sp = 0 ∧ (stacked 15 0x206).sp.val < 16 ∧ (stacked 0 0).sp.val < 16 := by decide

theorem witness_JumpSetsPc :
    ((State.reset.placeWord 0x1200).AtWord (BitVec.ofNat 16 (0x1000 + (State.reset.placeWord 0x1200).pc.toNat))) ∧
    (((State.reset.setPc 4094).placeWord 0x1FFE).AtWord
      (BitVec.ofNat 16 (0x1000 + ((State.reset.setPc 4094).placeWord 0x1FFE).pc.toNat))) ∧
    State.reset.status = .running := by
  unfold State.AtWord
  decide

theorem witness_CallPushesReturnAddress :
    (stacked 0 0).sp.val = (0 : Fin 16).val ∧ (stacked 15 0x206).sp.val = (15 : Fin 16).val ∧ (0 : Fin 16) ≠ 15 ∧
    (stacked 16 0x206).sp.val = 16 := by decide

theorem witness_SkipOnByteComparison :
    (regs [(15, 0xFF)]).getV 15 = 0xFF ∧ (regs [(0, 0)]).getV 0 = 0 ∧ (regs [(15, 0xFF)]).getV 15 ≠ 0xFE := by decide

theorem witness_SkipOnRegisterComparison :
    (regs [(0, 7), (15, 7)]).getV 0 = (regs [(0, 7), (15, 7)]).getV 15 ∧
    (regs [(0, 7), (15, 8)]).getV 0 ≠ (regs [(0, 7), (15, 8)]).getV 15 := by decide

/-- The sums 256 and 255, with a destination that is not VF, the highest and the lowest. -/
theorem witness_AddWithCarry :
    (14 : Reg) ≠ 15 ∧ (0 : Reg) ≠ 15 ∧
    255 < ((regs [(14, 255), (0, 1)]).getV 14).toNat + ((regs [(14, 255), (0, 1)]).getV 0).toNat ∧
    ¬255 < ((regs [(14, 255), (0, 0)]).getV 14).toNat + ((regs [(14, 255), (0, 0)]).getV 0).toNat := by decide

/-- Operands that differ by one in either order, and equal ones. -/
theorem witness_SubtractWithStrictFlag :
    (14 : Reg) ≠ 15 ∧ ((regs [(0, 4), (14, 5)]).getV 0).toNat < ((regs [(0, 4), (14, 5)]).getV 14).toNat ∧
    ¬((regs [(0, 5), (14, 5)]).getV 0).toNat < ((regs [(0, 5), (14, 5)]).getV 14).toNat := by decide

theorem witness_ShiftByOneWithFlag : (14 : Reg) ≠ 15 ∧ (0 : Reg) ≠ 15 := by decide

theorem witness_RandomByteIsMasked : (0xFE : Byte).getLsbD 0 = false ∧ (0x7F : Byte).getLsbD 7 = false := by decide

theorem witness_AddRegisterToIndex :
    ((regs [(0, 0xFF)]).setIndex 0xFF00).index.toNat + (((regs [(0, 0xFF)]).setIndex 0xFF00).getV 0).toNat ≤ 0xFFFF ∧
    0xFFFF < ((regs [(0, 0xFF)]).setIndex 0xFF01).index.toNat + (((regs [(0, 0xFF)]).setIndex 0xFF01).getV 0).toNat := by
  decide

theorem witness_PointIndexToGlyph :
    ((regs [(0, 15)]).getV 0).toNat ≤ 15 ∧ ((regs [(0, 0)]).getV 0).toNat ≤ 15 ∧ 15 < ((regs [(0, 16)]).getV 0).toNat := by
  decide

theorem witness_StoreDecimalDigits :
    (State.reset.setIndex 4093).index.toNat + 3 ≤ 4096 ∧ 4096 < (State.reset.setIndex 4094).index.toNat + 3 := by decide

theorem witness_StoreRegisterRange :
    (State.reset.setIndex 4080).index.toNat + (15 : Reg).val + 1 ≤ 4096 ∧
    (State.reset.setIndex 4095).index.toNat + (0 : Reg).val + 1 ≤ 4096 ∧ (15 : Reg) ≤ 15 ∧ (0 : Reg) ≤ 15 ∧
    4096 < (State.reset.setIndex 4081).index.toNat + (15 : Reg).val + 1 ∧
    4096 < (State.reset.setIndex 4096).index.toNat + (0 : Reg).val + 1 := by decide

theorem witness_LoadRegisterRange :
    (State.reset.setIndex 4081).index.toNat + (14 : Reg).val + 1 ≤ 4096 ∧ (14 : Reg) ≤ 14 ∧ (14 : Reg) < 15 ∧
    4096 < (State.reset.setIndex 4082).index.toNat + (14 : Reg).val + 1 := by decide

theorem witness_StoreThenLoadKeepsRegisters :
    (State.reset.setIndex 4080).index.toNat + (15 : Reg).val + 1 ≤ 4096 := by decide

theorem witness_StoreIsSeenByTheNextFetch :
    (State.reset.setIndex 0x200).status = .running ∧ 1 ≤ (1 : Reg).val ∧
    (State.reset.setIndex 0x200).index = (State.reset.setIndex 0x200).pc ∧
    (State.reset.setIndex 0x200).pc.toNat + (1 : Reg).val + 1 ≤ 4096 ∧
    ((State.reset.setPc 4094).setIndex 4094).index = ((State.reset.setPc 4094).setIndex 4094).pc ∧
    ((State.reset.setPc 4094).setIndex 4094).pc.toNat + (1 : Reg).val + 1 ≤ 4096 := by decide

theorem witness_SkipOnKey :
    ((regs [(0, 15)]).getV 0).toNat = (15 : Fin 16).val ∧ (press [15] (regs [(0, 15)])).keys[(15 : Fin 16)] = true ∧
    (regs [(0, 15)]).keys[(15 : Fin 16)] = false ∧ ((regs [(0, 0)]).getV 0).toNat = (0 : Fin 16).val ∧
    15 < ((regs [(0, 16)]).getV 0).toNat := by decide

theorem witness_ReadDelayTimer :
    (((State.reset.setDt 4).placeWord 0xF107)).AtWord (BitVec.ofNat 16 (0xF007 + (1 : Reg).val * 256)) := by
  unfold State.AtWord
  decide

theorem witness_WaitForLowestKey :
    ((press [15, 3] State.reset).keys[(3 : Fin 16)] = true ∧
      ∀ j : Fin 16, j < 3 → (press [15, 3] State.reset).keys[j] = false) ∧
    ((press [15] State.reset).keys[(15 : Fin 16)] = true ∧
      ∀ j : Fin 16, j < 15 → (press [15] State.reset).keys[j] = false) ∧
    ∀ k : Fin 16, State.reset.keys[k] = false := by decide

theorem witness_SetDelayTimer :
    (State.reset.placeWord 0xFF15).AtWord (BitVec.ofNat 16 (0xF015 + (15 : Reg).val * 256)) := by
  unfold State.AtWord
  decide

theorem witness_SetSoundTimer :
    (State.reset.placeWord 0xFF18).AtWord (BitVec.ofNat 16 (0xF018 + (15 : Reg).val * 256)) := by
  unfold State.AtWord
  decide

theorem witness_KeySetChangesOneKey : (0 : Fin 16) ≠ 15 := by decide

/-- F2 and the last address a self-jump can have. -/
theorem witness_CompleteProgramChangesOnlyTimers :
    (State.reset.placeWord 0x1200).Complete ∧ ((State.reset.setPc 4094).placeWord 0x1FFE).Complete := by
  unfold State.Complete
  decide

end Sys2Proof.Tests
end

section
/-! PROOFS. What replacing the framebuffer changes and keeps, and 00E0 (spec/40_display.md R51). -/

namespace Sys2Proof.Machine

/-- Every cell of the blank framebuffer is off. -/
theorem Framebuffer.getElem_blank (r : Fin 32) (c : Fin 64) : Framebuffer.blank[r][c] = false := by
  simp [Framebuffer.blank]

@[simp] theorem State.cellAt_setFb (s : State) (fb : Framebuffer) (r : Fin 32) (c : Fin 64) :
    (s.setFb fb).cellAt r c = fb[r][c] := rfl

/-- The frame of a framebuffer write: replacing the framebuffer keeps every other field. -/
theorem State.agreeExcept_setFb (s : State) (fb : Framebuffer) : State.AgreeExcept [.fb] s (s.setFb fb) := by
  simp [State.AgreeExcept]

theorem exec_cls (s : State) : exec .cls s = .next (s.setFb Framebuffer.blank) := rfl

/-- The word 0x00E0 is the first of the two that the decoder compares whole (R44). -/
theorem decodesAs_cls : DecodesAs 0x00E0 .cls := rfl

/-- Settles O24: the clear instruction replaces the framebuffer by the blank one. -/
theorem clearScreenTurnsEveryCellOff : Obligations.ClearScreenTurnsEveryCellOff := by
  refine ⟨decodesAs_cls, fun s => ⟨s.setFb Framebuffer.blank, exec_cls s, fun r c => ?_, s.agreeExcept_setFb _⟩⟩
  rw [State.cellAt_setFb, Framebuffer.getElem_blank]

end Sys2Proof.Machine
end

section
/-! PROOFS. Decoding a word from its number: the category, and the operands of the XKK format (spec/30_encoding.md R41,
R42, R44). -/

namespace Sys2Proof

/-- A word whose category is not 0 is none of the two whole-word opcodes: its category alone picks the family (R44). -/
theorem decodeWord_ofNat (n : Nat) (hn : n < 65536) (hc : 0 < n / 4096) :
    decodeWord (BitVec.ofNat 16 n) = decodeFamily (BitVec.ofNat 16 n) (n / 4096) := by
  have hw : (BitVec.ofNat 16 n).toNat = n := by rw [BitVec.toNat_ofNat]; omega
  rw [decodeWord, fieldCategory, hw, if_neg (by omega), if_neg (by omega)]

variable (c : Nat) (x : Reg) (kk : Byte)

theorem decodeWord_codeXKK (h0 : 0 < c) (hc : c < 16) :
    decodeWord (BitVec.ofNat 16 (codeXKK c x kk)) = decodeFamily (BitVec.ofNat 16 (codeXKK c x kk)) c := by
  have hx := x.isLt
  have hkk := kk.isLt
  have hcat : codeXKK c x kk / 4096 = c := by unfold codeXKK; omega
  rw [decodeWord_ofNat _ (by unfold codeXKK; omega) (by omega), hcat]

theorem fieldX_codeXKK : fieldX (BitVec.ofNat 16 (codeXKK c x kk)) = x := by
  have hx := x.isLt
  have hkk := kk.isLt
  apply Fin.ext
  simp only [fieldX, codeXKK, BitVec.toNat_ofNat, Fin.val_ofNat]
  omega

theorem fieldKK_codeXKK : fieldKK (BitVec.ofNat 16 (codeXKK c x kk)) = kk := by
  have hkk := kk.isLt
  apply BitVec.eq_of_toNat_eq
  simp only [fieldKK, codeXKK, BitVec.toNat_ofNat]
  omega

end Sys2Proof
end

section
/-! PROOFS. The frame of a control transfer, and the skips 3xkk and 4xkk (spec/41_flow.md R60, R61). -/

namespace Sys2Proof.Machine

/-- The frame of a jump or skip: setting pc keeps every other field. -/
theorem State.agreeExcept_setPc (s : State) (a : Word) : State.AgreeExcept [.pc] s (s.setPc a) := by
  simp [State.AgreeExcept]

section
variable (x : Reg) (kk : Byte) (s : State)

theorem decodesAs_seImm : DecodesAs (codeXKK 0x3 x kk) (.seImm x kk) := by
  rw [DecodesAs, decodeWord_codeXKK 0x3 x kk (by decide) (by decide), decodeFamily, fieldX_codeXKK, fieldKK_codeXKK]

theorem decodesAs_sneImm : DecodesAs (codeXKK 0x4 x kk) (.sneImm x kk) := by
  rw [DecodesAs, decodeWord_codeXKK 0x4 x kk (by decide) (by decide), decodeFamily, fieldX_codeXKK, fieldKK_codeXKK]

/-- 3xkk skips where the register equals the byte (R60). -/
theorem exec_seImm : exec (.seImm x kk) s = .next (s.skipIf (decide (s.getV x = kk))) := rfl

/-- 4xkk skips where the register differs from the byte (R61). -/
theorem exec_sneImm : exec (.sneImm x kk) s = .next (s.skipIf (decide (s.getV x ≠ kk))) := rfl

/-- What a skip on a condition does: pc moves on by 2 where the condition holds and stays where it does not, and no
other field changes (R56). -/
theorem State.skipIf_spec (p : Prop) [Decidable p] :
    (p → (s.skipIf (decide p)).pc = s.pc + 2) ∧ (¬p → (s.skipIf (decide p)).pc = s.pc) ∧
      State.AgreeExcept [.pc] s (s.skipIf (decide p)) := by
  rw [State.skipIf_eq]
  refine ⟨fun h => ?_, fun h => ?_, s.agreeExcept_setPc _⟩
  · simp [h]
  · simp [h]

end

/-- Settles O30: both are skips on a comparison of V[x] with kk, one on equality and the other on its negation. -/
theorem skipOnByteComparison : Obligations.SkipOnByteComparison := by
  refine ⟨fun x kk => ⟨decodesAs_seImm x kk, decodesAs_sneImm x kk⟩, fun x kk s => ⟨?_, ?_⟩⟩
  · exact ⟨_, exec_seImm x kk s, s.skipIf_spec (s.getV x = kk)⟩
  · obtain ⟨hskip, hstay, hframe⟩ := s.skipIf_spec (s.getV x ≠ kk)
    exact ⟨_, exec_sneImm x kk s, hskip, fun h => hstay (not_not_intro h), hframe⟩

end Sys2Proof.Machine
end

section
/-! PROOFS. The return 00EE, and that it undoes a call (spec/41_flow.md R57, R59). -/

namespace Sys2Proof.Machine

/-- The word 0x00EE is the second of the two that the decoder compares whole (R44). -/
theorem decodesAs_ret : DecodesAs 0x00EE .ret := rfl

/-- The frame of a return: the popped addresses stay in their entries, and only the pointer and pc move. -/
theorem State.agreeExcept_popped (s : State) (n : Fin 17) (a : Word) :
    State.AgreeExcept [.pc, .sp] s ((s.setStack s.stack n).setPc a) := by
  simp [State.AgreeExcept]

/-- A return with an address held pops the top one into pc (R19, R57). -/
theorem exec_ret_of_pos (s : State) (h : 0 < s.sp.val) :
    exec .ret s = .next ((s.setStack s.stack ⟨s.sp.val - 1, by omega⟩).setPc s.stack[s.sp.val - 1]) := by
  have hpop := (s.pop_some _ _).mpr ⟨h, rfl, rfl⟩
  rw [exec, execRet, hpop, Option.map_some, State.orFatal_some]

/-- A return with no address held is a stack underflow (R19, R57). -/
theorem exec_ret_of_empty (s : State) (h : s.sp.val = 0) : exec .ret s = .next (s.raiseFatal .stackUnderflow) := by
  rw [exec, execRet, s.pop_none.mpr h, Option.map_none, State.orFatal_none]

/-- A call with a free entry pushes pc and jumps (R19, R59). -/
theorem exec_call_of_lt (nnn : Addr) (s : State) (h : s.sp.val < 16) :
    exec (.call nnn) s =
      .next ((s.setStack (s.stack.set s.sp.val s.pc) ⟨s.sp.val + 1, by omega⟩).setPc (addrWord nnn)) := by
  have hpush := (s.push_some s.pc _).mpr ⟨h, rfl⟩
  rw [exec, execCall, hpush, Option.map_some, State.orFatal_some]

/-- A return right after a call finds the pushed pc on top, in the entry the call wrote (R57). -/
theorem exec_ret_after_call (nnn : Addr) (s : State) (h : s.sp.val < 16) :
    ∃ t u, exec (.call nnn) s = .next t ∧ exec .ret t = .next u ∧ u.pc = s.pc ∧ u.sp = s.sp := by
  refine ⟨_, _, exec_call_of_lt nnn s h, exec_ret_of_pos _ (Nat.succ_pos _), ?_, ?_⟩
  · simp
  · simp

/-- Settles O27: a return pops the top address, underflows where there is none, and undoes a call. -/
theorem returnPopsTopAddress : Obligations.ReturnPopsTopAddress := by
  refine ⟨decodesAs_ret, fun s => ⟨fun j hj => ?_, fun h0 => ?_, fun nnn hlt => exec_ret_after_call nnn s hlt⟩⟩
  · have htop : s.sp.val - 1 = j.val := by omega
    refine ⟨_, exec_ret_of_pos s (by omega), ?_, htop, s.agreeExcept_popped _ _⟩
    simp [htop]
  · exact ⟨_, exec_ret_of_empty s (congrArg Fin.val h0), s.raiseFatal_status _⟩

end Sys2Proof.Machine
end

section
/-! PROOFS. Decoding a word of the XYN format from its number, and the words of category 8 (spec/30_encoding.md R41,
R42, R44). -/

namespace Sys2Proof

variable (c : Nat) (x y : Reg) (n : Nat)

/-- The word's number with its fixed bits first, as the obligations write it. -/
theorem codeXYN_eq : codeXYN c x y n = c * 4096 + n + x.val * 256 + y.val * 16 := by
  unfold codeXYN
  omega

theorem decodeWord_codeXYN (h0 : 0 < c) (hc : c < 16) (hn : n < 16) :
    decodeWord (BitVec.ofNat 16 (codeXYN c x y n)) = decodeFamily (BitVec.ofNat 16 (codeXYN c x y n)) c := by
  have hx := x.isLt
  have hy := y.isLt
  have hcat : codeXYN c x y n / 4096 = c := by unfold codeXYN; omega
  rw [decodeWord_ofNat _ (by unfold codeXYN; omega) (by omega), hcat]

theorem fieldX_codeXYN (hn : n < 16) : fieldX (BitVec.ofNat 16 (codeXYN c x y n)) = x := by
  have hx := x.isLt
  have hy := y.isLt
  apply Fin.ext
  simp only [fieldX, codeXYN, BitVec.toNat_ofNat, Fin.val_ofNat]
  omega

theorem fieldY_codeXYN (hn : n < 16) : fieldY (BitVec.ofNat 16 (codeXYN c x y n)) = y := by
  have hy := y.isLt
  apply Fin.ext
  simp only [fieldY, codeXYN, BitVec.toNat_ofNat, Fin.val_ofNat]
  omega

theorem fieldN_codeXYN (hn : n < 16) : (fieldN (BitVec.ofNat 16 (codeXYN c x y n))).val = n := by
  simp only [fieldN, codeXYN, BitVec.toNat_ofNat, Fin.val_ofNat]
  omega

end Sys2Proof

namespace Sys2Proof.Machine

/-- What a word of category 8 decodes to is picked by n alone: the three fields are the operands and the sub-opcode that
the word was built from (R44). -/
theorem decodesAs_arith (x y : Reg) (n : Nat) (i : Instr) (hn : n < 16)
    (hi : ∀ w, (fieldN w).val = n → fieldX w = x → fieldY w = y → decodeArith w = .ok i) :
    DecodesAs (0x8000 + n + x.val * 256 + y.val * 16) i := by
  rw [DecodesAs, ← codeXYN_eq 0x8 x y n, decodeWord_codeXYN 0x8 x y n (by decide) (by decide) hn]
  exact hi _ (fieldN_codeXYN 0x8 x y n hn) (fieldX_codeXYN 0x8 x y n hn) (fieldY_codeXYN 0x8 x y n hn)

end Sys2Proof.Machine
end

section
/-! PROOFS. The frame of a register write, and the instructions that write one register and no flag: 6xkk, 7xkk and 8xy0
to 8xy3 (spec/42_alu.md R67 to R72). -/

namespace Sys2Proof.Machine

section
variable (x y : Reg) (kk : Byte) (s : State)

/-- The register written holds the byte. -/
theorem State.getV_setV_self (b : Byte) : (s.setV x b).getV x = b := by simp

/-- A register write keeps every other register. -/
theorem State.regsExcept_setV (b : Byte) : State.RegsExcept [x] s (s.setV x b) := by
  intro r hr
  have hne : x ≠ r := fun h => hr (h ▸ List.mem_singleton_self x)
  rw [State.getV_setV, if_neg hne]

/-- The frame of a register write: it keeps every other field. -/
theorem State.agreeExcept_setV (b : Byte) : State.AgreeExcept [.v] s (s.setV x b) := by
  simp [State.AgreeExcept]

/-- What a register write changes: the one register and nothing else. -/
theorem State.setV_frame (b : Byte) : State.RegsExcept [x] s (s.setV x b) ∧ State.AgreeExcept [.v] s (s.setV x b) :=
  ⟨s.regsExcept_setV x b, s.agreeExcept_setV x b⟩

theorem decodesAs_ldImm : DecodesAs (codeXKK 0x6 x kk) (.ldImm x kk) := by
  rw [DecodesAs, decodeWord_codeXKK 0x6 x kk (by decide) (by decide), decodeFamily, fieldX_codeXKK, fieldKK_codeXKK]

theorem decodesAs_addImm : DecodesAs (codeXKK 0x7 x kk) (.addImm x kk) := by
  rw [DecodesAs, decodeWord_codeXKK 0x7 x kk (by decide) (by decide), decodeFamily, fieldX_codeXKK, fieldKK_codeXKK]

theorem decodesAs_ldReg : DecodesAs (0x8000 + x.val * 256 + y.val * 16) (.ldReg x y) :=
  decodesAs_arith x y 0x0 _ (by decide) fun w hn hx hy => by simp only [decodeArith, hn, hx, hy]

theorem decodesAs_orReg : DecodesAs (0x8001 + x.val * 256 + y.val * 16) (.orReg x y) :=
  decodesAs_arith x y 0x1 _ (by decide) fun w hn hx hy => by simp only [decodeArith, hn, hx, hy]

theorem decodesAs_andReg : DecodesAs (0x8002 + x.val * 256 + y.val * 16) (.andReg x y) :=
  decodesAs_arith x y 0x2 _ (by decide) fun w hn hx hy => by simp only [decodeArith, hn, hx, hy]

theorem decodesAs_xorReg : DecodesAs (0x8003 + x.val * 256 + y.val * 16) (.xorReg x y) :=
  decodesAs_arith x y 0x3 _ (by decide) fun w hn hx hy => by simp only [decodeArith, hn, hx, hy]

theorem exec_ldImm : exec (.ldImm x kk) s = .next (s.setV x kk) := rfl

theorem exec_addImm : exec (.addImm x kk) s = .next (s.setV x (s.getV x + kk)) := rfl

theorem exec_ldReg : exec (.ldReg x y) s = .next (s.setV x (s.getV y)) := rfl

theorem exec_orReg : exec (.orReg x y) s = .next (s.setV x (s.getV x ||| s.getV y)) := rfl

theorem exec_andReg : exec (.andReg x y) s = .next (s.setV x (s.getV x &&& s.getV y)) := rfl

theorem exec_xorReg : exec (.xorReg x y) s = .next (s.setV x (s.getV x ^^^ s.getV y)) := rfl

end

/-- Settles O33: the instruction is a register write of its byte. -/
theorem loadByteWritesRegister : Obligations.LoadByteWritesRegister := by
  refine ⟨decodesAs_ldImm, fun x kk s => ⟨_, exec_ldImm x kk s, ?_, s.setV_frame x _⟩⟩
  exact s.getV_setV_self x kk

/-- Settles O34: the instruction is a register write of the byte sum, which wraps at 256. -/
theorem addByteWrapsWithoutFlag : Obligations.AddByteWrapsWithoutFlag := by
  refine ⟨decodesAs_addImm, fun x kk s => ⟨_, exec_addImm x kk s, ?_, s.setV_frame x _⟩⟩
  rw [State.getV_setV_self, BitVec.toNat_add]

/-- Settles O35: the instruction is a register write of the other register's byte. -/
theorem copyRegister : Obligations.CopyRegister := by
  refine ⟨decodesAs_ldReg, fun x y s => ⟨_, exec_ldReg x y s, ?_, s.setV_frame x _⟩⟩
  exact s.getV_setV_self x _

/-- Settles O36: each instruction is a register write of a bitwise combination, which is read bit by bit. -/
theorem bitwiseLogicWithoutFlag : Obligations.BitwiseLogicWithoutFlag := by
  refine ⟨fun x y => ⟨decodesAs_orReg x y, decodesAs_andReg x y, decodesAs_xorReg x y⟩, fun x y s =>
    ⟨⟨_, exec_orReg x y s, fun k => ?or, s.setV_frame x _⟩,
      ⟨_, exec_andReg x y s, fun k => ?and, s.setV_frame x _⟩,
      ⟨_, exec_xorReg x y s, fun k => ?xor, s.setV_frame x _⟩⟩⟩
  case or => rw [State.getV_setV_self, BitVec.getLsbD_or]
  case and => rw [State.getV_setV_self, BitVec.getLsbD_and]
  case xor => rw [State.getV_setV_self, BitVec.getLsbD_xor]

end Sys2Proof.Machine
end

section
/-! PROOFS. Decoding a word of the ADDR format from its number (spec/30_encoding.md R41, R42, R44). -/

namespace Sys2Proof

variable (c : Nat) (nnn : Addr)

theorem decodeWord_codeADDR (h0 : 0 < c) (hc : c < 16) :
    decodeWord (BitVec.ofNat 16 (codeADDR c nnn)) = decodeFamily (BitVec.ofNat 16 (codeADDR c nnn)) c := by
  have hnnn := nnn.isLt
  have hcat : codeADDR c nnn / 4096 = c := by unfold codeADDR; omega
  rw [decodeWord_ofNat _ (by unfold codeADDR; omega) (by omega), hcat]

theorem fieldNNN_codeADDR : fieldNNN (BitVec.ofNat 16 (codeADDR c nnn)) = nnn := by
  have hnnn := nnn.isLt
  apply BitVec.eq_of_toNat_eq
  simp only [fieldNNN, codeADDR, BitVec.toNat_ofNat]
  omega

end Sys2Proof
end

section
/-! PROOFS. The frame of an index write, and Annn (spec/43_index_memory.md R79). -/

namespace Sys2Proof.Machine

/-- The frame of an index write: setting I keeps every other field. -/
theorem State.agreeExcept_setIndex (s : State) (a : Word) : State.AgreeExcept [.index] s (s.setIndex a) := by
  simp [State.AgreeExcept]

theorem decodesAs_ldI (nnn : Addr) : DecodesAs (codeADDR 0xA nnn) (.ldI nnn) := by
  rw [DecodesAs, decodeWord_codeADDR 0xA nnn (by decide) (by decide), decodeFamily, fieldNNN_codeADDR]

theorem exec_ldI (nnn : Addr) (s : State) : exec (.ldI nnn) s = .next (s.setIndex (addrWord nnn)) := rfl

/-- Settles O41: the instruction is an index write of its address, which the wider word holds unchanged. -/
theorem loadIndexSetsI : Obligations.LoadIndexSetsI := by
  refine ⟨decodesAs_ldI, fun nnn s => ⟨_, exec_ldI nnn s, ?_, s.agreeExcept_setIndex _⟩⟩
  rw [State.setIndex_index, toNat_addrWord]

end Sys2Proof.Machine
end

section
/-! PROOFS. The words of category F (spec/30_encoding.md R41, R42, R44). -/

namespace Sys2Proof.Machine

/-- The word's number with its fixed bits first, as the obligations write it. -/
theorem codeXKK_eq (c : Nat) (x : Reg) (kk : Byte) : codeXKK c x kk = c * 4096 + kk.toNat + x.val * 256 := by
  unfold codeXKK
  omega

/-- What a word of category F decodes to is picked by kk alone: the register and the sub-opcode are those that the word
was built from (R44). -/
theorem decodesAs_misc (x : Reg) (kk : Byte) (i : Instr)
    (hi : ∀ w, fieldKK w = kk → fieldX w = x → decodeMisc w = .ok i) :
    DecodesAs (0xF000 + kk.toNat + x.val * 256) i := by
  rw [DecodesAs, ← codeXKK_eq 0xF x kk, decodeWord_codeXKK 0xF x kk (by decide) (by decide)]
  exact hi _ (fieldKK_codeXKK 0xF x kk) (fieldX_codeXKK 0xF x kk)

end Sys2Proof.Machine
end

section
/-! PROOFS. A whole cycle from a state whose next word is known (spec/30_encoding.md R43, R47). -/

namespace Sys2Proof.Machine

/-- The state in which the instruction at pc executes: the load is closed and pc is past the word (R43, R47). -/
def State.fetched (s : State) : State := s.closeLoad.setPc (s.pc + 2)

@[simp] theorem State.fetched_dt (s : State) : s.fetched.dt = s.dt := rfl
@[simp] theorem State.fetched_status (s : State) : s.fetched.status = s.status := rfl

/-- Ticking the timers keeps every register. -/
@[simp] theorem State.getV_tickTimers (s : State) (r : Reg) : s.tickTimers.getV r = s.getV r := rfl

variable {s u : State} {w : Word} {i : Instr}

theorem State.AtWord.fetch_eq (h : s.AtWord w) : s.closeLoad.fetch = some (w, s.fetched) := by
  obtain ⟨-, hpc, hw⟩ := h
  exact (State.fetch_some _ _ _).mpr ⟨hpc, hw.symm, rfl⟩

/-- A running machine executes the instruction of the word at pc, and the end of the cycle follows (R47). -/
theorem step_of_atWord (h : s.AtWord w) (hi : decodeWord w = .ok i) : step s = finishCycle (exec i s.fetched) := by
  have hrun : s.status = .running := h.1
  simp only [step, cycle, hrun, runCycle, h.fetch_eq, execWord, hi]

/-- The timers tick after an instruction that leaves the machine running (R47, R102). -/
theorem finishCycle_of_running (hu : u.status = .running) : finishCycle (.next u) = .next u.tickTimers := by
  rw [finishCycle, hu]

/-- A whole cycle whose instruction leaves the machine running: its effect, then the tick of the timers (R47). -/
theorem step_of_exec (h : s.AtWord w) (hi : decodeWord w = .ok i) (he : exec i s.fetched = .next u)
    (hu : u.status = .running) : step s = .next u.tickTimers := by
  rw [step_of_atWord h hi, he, finishCycle_of_running hu]

end Sys2Proof.Machine
end

section
/-! PROOFS. Fx07 (spec/44_input_timers.md R88). -/

namespace Sys2Proof.Machine

theorem decodesAs_ldVxDt (x : Reg) : DecodesAs (0xF007 + x.val * 256) (.ldVxDt x) :=
  decodesAs_misc x 0x07 _ fun w hkk hx => by rw [decodeMisc, hkk, hx]; rfl

theorem exec_ldVxDt (x : Reg) (s : State) : exec (.ldVxDt x) s = .next (s.setV x s.dt) := rfl

/-- The whole cycle of Fx07: the register is written before the timers tick. -/
theorem step_ldVxDt (x : Reg) (s : State) (h : s.AtWord (BitVec.ofNat 16 (0xF007 + x.val * 256))) :
    step s = .next (s.fetched.setV x s.dt).tickTimers := by
  have hrun : s.status = .running := h.1
  exact step_of_exec h (decodesAs_ldVxDt x) (exec_ldVxDt x s.fetched) hrun

/-- Settles O50: the instruction is a register write of the delay timer, which the cycle's tick then follows. -/
theorem readDelayTimer : Obligations.ReadDelayTimer := by
  refine ⟨decodesAs_ldVxDt, fun x s => ⟨_, exec_ldVxDt x s, ?_, s.setV_frame x _⟩, fun x s h =>
    ⟨_, step_ldVxDt x s h, ?_, ?_⟩⟩
  · exact s.getV_setV_self x _
  · rw [State.getV_tickTimers, State.getV_setV_self]
  · rw [State.tickTimers_dt, toNat_tick, State.setV_dt, State.fetched_dt]

end Sys2Proof.Machine
end

section
/-! PROOFS. Every instruction's word decodes to it, format by format, and the words written out from the patterns
(spec/30_encoding.md R42, R44, R45). -/

namespace Sys2Proof.Machine

section
variable {c : Nat} {x y : Reg} {kk : Byte} {n : Nat} {nnn : Addr} {i : Instr}

/-- A word of the ADDR format decodes by its category to an instruction with its address. -/
theorem decodesAs_codeADDR (h0 : 0 < c) (hc : c < 16)
    (hi : ∀ w, fieldNNN w = nnn → decodeFamily w c = .ok i) : DecodesAs (codeADDR c nnn) i := by
  rw [DecodesAs, decodeWord_codeADDR c nnn h0 hc]
  exact hi _ (fieldNNN_codeADDR c nnn)

/-- A word of the XKK or XOP format decodes by its category to an instruction with its register and byte. -/
theorem decodesAs_codeXKK (h0 : 0 < c) (hc : c < 16)
    (hi : ∀ w, fieldX w = x → fieldKK w = kk → decodeFamily w c = .ok i) : DecodesAs (codeXKK c x kk) i := by
  rw [DecodesAs, decodeWord_codeXKK c x kk h0 hc]
  exact hi _ (fieldX_codeXKK c x kk) (fieldKK_codeXKK c x kk)

/-- A word of the XY or XYN format decodes by its category to an instruction with its registers and low digit. -/
theorem decodesAs_codeXYN (h0 : 0 < c) (hc : c < 16) (hn : n < 16)
    (hi : ∀ w, fieldX w = x → fieldY w = y → (fieldN w).val = n → decodeFamily w c = .ok i) :
    DecodesAs (codeXYN c x y n) i := by
  rw [DecodesAs, decodeWord_codeXYN c x y n h0 hc hn]
  exact hi _ (fieldX_codeXYN c x y n hn) (fieldY_codeXYN c x y n hn) (fieldN_codeXYN c x y n hn)

/-- The number of the XOP format with its fixed bits first, as the obligations write it. -/
theorem codeXOP_eq (c : Nat) (x : Reg) (kk : Nat) : codeXOP c x kk = c * 4096 + kk + x.val * 256 := by
  unfold codeXOP
  omega

/-- A word of category 8 in the number that the encoder gives it: its sub-opcode n picks the instruction. -/
theorem decodesAs_codeXYN_arith (hn : n < 16)
    (hi : ∀ w, (fieldN w).val = n → fieldX w = x → fieldY w = y → decodeArith w = .ok i) :
    DecodesAs (codeXYN 0x8 x y n) i := by
  rw [codeXYN_eq]
  exact decodesAs_arith x y n i hn hi

/-- A word of category E in the number that the encoder gives it: its sub-opcode kk picks the instruction. -/
theorem decodesAs_codeXOP_key (hi : ∀ w, fieldX w = x → fieldKK w = kk → decodeKey w = .ok i) :
    DecodesAs (codeXOP 0xE x kk.toNat) i :=
  decodesAs_codeXKK (by decide) (by decide) hi

/-- A word of category F in the number that the encoder gives it: its sub-opcode kk picks the instruction. -/
theorem decodesAs_codeXOP_misc (hi : ∀ w, fieldKK w = kk → fieldX w = x → decodeMisc w = .ok i) :
    DecodesAs (codeXOP 0xF x kk.toNat) i := by
  rw [codeXOP_eq]
  exact decodesAs_misc x kk i hi

end

/-- The number of every instruction's word decodes to the instruction, with every operand. -/
theorem decodesAs_encodeNat (i : Instr) : DecodesAs (encodeNat i) i := by
  cases i with
  | cls => exact decodesAs_cls
  | ret => exact decodesAs_ret
  | jp nnn => exact decodesAs_codeADDR (by decide) (by decide) fun w h => by rw [decodeFamily, h]
  | call nnn => exact decodesAs_codeADDR (by decide) (by decide) fun w h => by rw [decodeFamily, h]
  | seImm x kk => exact decodesAs_seImm x kk
  | sneImm x kk => exact decodesAs_sneImm x kk
  | seReg x y =>
    exact decodesAs_codeXYN (by decide) (by decide) (by decide) fun w hx hy hn => by
      rw [decodeFamily, if_pos hn, hx, hy]
  | ldImm x kk => exact decodesAs_ldImm x kk
  | addImm x kk => exact decodesAs_addImm x kk
  | ldReg x y => rw [encodeNat, codeXYN_eq]; exact decodesAs_ldReg x y
  | orReg x y => rw [encodeNat, codeXYN_eq]; exact decodesAs_orReg x y
  | andReg x y => rw [encodeNat, codeXYN_eq]; exact decodesAs_andReg x y
  | xorReg x y => rw [encodeNat, codeXYN_eq]; exact decodesAs_xorReg x y
  | addReg x y => exact decodesAs_codeXYN_arith (by decide) fun w hn hx hy => by simp only [decodeArith, hn, hx, hy]
  | sub x y => exact decodesAs_codeXYN_arith (by decide) fun w hn hx hy => by simp only [decodeArith, hn, hx, hy]
  | shr x y => exact decodesAs_codeXYN_arith (by decide) fun w hn hx hy => by simp only [decodeArith, hn, hx, hy]
  | subn x y => exact decodesAs_codeXYN_arith (by decide) fun w hn hx hy => by simp only [decodeArith, hn, hx, hy]
  | shl x y => exact decodesAs_codeXYN_arith (by decide) fun w hn hx hy => by simp only [decodeArith, hn, hx, hy]
  | sneReg x y =>
    exact decodesAs_codeXYN (by decide) (by decide) (by decide) fun w hx hy hn => by
      rw [decodeFamily, if_pos hn, hx, hy]
  | ldI nnn => exact decodesAs_ldI nnn
  | jpV0 nnn => exact decodesAs_codeADDR (by decide) (by decide) fun w h => by rw [decodeFamily, h]
  | rnd x kk => exact decodesAs_codeXKK (by decide) (by decide) fun w hx hkk => by rw [decodeFamily, hx, hkk]
  | drw x y n =>
    exact decodesAs_codeXYN (by decide) (by decide) n.isLt fun w hx hy hn => by
      rw [decodeFamily, hx, hy, Fin.ext hn]
  | skp x => exact decodesAs_codeXOP_key (kk := 0x9E) fun w hx hkk => by rw [decodeKey, hkk, hx]; rfl
  | sknp x => exact decodesAs_codeXOP_key (kk := 0xA1) fun w hx hkk => by rw [decodeKey, hkk, hx]; rfl
  | ldVxDt x => rw [encodeNat, codeXOP_eq]; exact decodesAs_ldVxDt x
  | ldVxK x => exact decodesAs_codeXOP_misc (kk := 0x0A) fun w hkk hx => by rw [decodeMisc, hkk, hx]; rfl
  | ldDtVx x => exact decodesAs_codeXOP_misc (kk := 0x15) fun w hkk hx => by rw [decodeMisc, hkk, hx]; rfl
  | ldStVx x => exact decodesAs_codeXOP_misc (kk := 0x18) fun w hkk hx => by rw [decodeMisc, hkk, hx]; rfl
  | addIVx x => exact decodesAs_codeXOP_misc (kk := 0x1E) fun w hkk hx => by rw [decodeMisc, hkk, hx]; rfl
  | ldFVx x => exact decodesAs_codeXOP_misc (kk := 0x29) fun w hkk hx => by rw [decodeMisc, hkk, hx]; rfl
  | ldBVx x => exact decodesAs_codeXOP_misc (kk := 0x33) fun w hkk hx => by rw [decodeMisc, hkk, hx]; rfl
  | ldMemVx x => exact decodesAs_codeXOP_misc (kk := 0x55) fun w hkk hx => by rw [decodeMisc, hkk, hx]; rfl
  | ldVxMem x => exact decodesAs_codeXOP_misc (kk := 0x65) fun w hkk hx => by rw [decodeMisc, hkk, hx]; rfl

/-- A number that is an instruction's decodes to it. -/
theorem decodesAs_of_encodeNat {i : Instr} {n : Nat} (h : encodeNat i = n) : DecodesAs n i :=
  h ▸ decodesAs_encodeNat i

/-- Settles O9: each of the words is the number of its instruction. -/
theorem sampleWordsDecode : Obligations.SampleWordsDecode :=
  ⟨decodesAs_cls, decodesAs_of_encodeNat rfl, decodesAs_of_encodeNat rfl, decodesAs_of_encodeNat rfl,
    decodesAs_of_encodeNat rfl, decodesAs_of_encodeNat rfl, decodesAs_of_encodeNat rfl, decodesAs_of_encodeNat rfl⟩

end Sys2Proof.Machine
end

section
/-! PROOFS. Words and bytes, and that decoding undoes encoding (spec/20_memory.md R33, spec/30_encoding.md R40). -/

namespace Sys2Proof

/-- A word is put together again from its two bytes. -/
theorem wordOfBytes_wordHi_wordLo (w : Word) : wordOfBytes (wordHi w) (wordLo w) = w := by
  apply BitVec.eq_of_toNat_eq
  simp only [wordOfBytes, wordHi, wordLo, BitVec.toNat_ofNat]
  omega

/-- Two bytes in front decode as the word made of them, and the other bytes stay. -/
theorem decode_cons_cons {hi lo : Byte} {i : Instr} (rest : List Byte) (h : decodeWord (wordOfBytes hi lo) = .ok i) :
    decode (hi :: lo :: rest) = .ok (i, rest) := by
  rw [decode, h]

/-- Settles O6: an instruction's bytes make its word again, which decodes to it. -/
theorem decodeOfEncodeIsIdentity : Obligations.DecodeOfEncodeIsIdentity := by
  intro i rest
  have hw : decodeWord (wordOfBytes (wordHi (encodeWord i)) (wordLo (encodeWord i))) = .ok i := by
    rw [wordOfBytes_wordHi_wordLo]
    exact Machine.decodesAs_encodeNat i
  exact decode_cons_cons rest hw

end Sys2Proof
end

section
/-! PROOFS. A word is the number of its fields in every format, so that encoding undoes decoding (spec/30_encoding.md
R41, R42, R44). -/

namespace Sys2Proof

section
variable {w : Word} {c : Nat}

theorem ofNat_codeADDR_fields (hc : fieldCategory w = c) : BitVec.ofNat 16 (codeADDR c (fieldNNN w)) = w := by
  apply BitVec.eq_of_toNat_eq
  simp only [← hc, codeADDR, fieldCategory, fieldNNN, BitVec.toNat_ofNat]
  omega

theorem ofNat_codeXKK_fields (hc : fieldCategory w = c) : BitVec.ofNat 16 (codeXKK c (fieldX w) (fieldKK w)) = w := by
  apply BitVec.eq_of_toNat_eq
  simp only [← hc, codeXKK, fieldCategory, fieldX, fieldKK, BitVec.toNat_ofNat, Fin.val_ofNat]
  omega

theorem ofNat_codeXOP_fields {kk : Nat} (hc : fieldCategory w = c) (hkk : (fieldKK w).toNat = kk) :
    BitVec.ofNat 16 (codeXOP c (fieldX w) kk) = w := by
  rw [← hkk]
  exact ofNat_codeXKK_fields hc

theorem ofNat_codeXYN_fields {n : Nat} (hc : fieldCategory w = c) (hn : (fieldN w).val = n) :
    BitVec.ofNat 16 (codeXYN c (fieldX w) (fieldY w) n) = w := by
  apply BitVec.eq_of_toNat_eq
  simp only [← hc, ← hn, codeXYN, fieldCategory, fieldX, fieldY, fieldN, BitVec.toNat_ofNat, Fin.val_ofNat]
  omega

end

section
variable {w : Word} {i : Instr}

/-- Category 8: the sub-opcode n picks the instruction, whose word has the same three fields. -/
theorem encodeWord_of_decodeArith (hc : fieldCategory w = 0x8) (h : decodeArith w = .ok i) : encodeWord i = w := by
  unfold decodeArith at h
  split at h <;> cases h <;> exact ofNat_codeXYN_fields hc ‹_›

/-- Category E: the sub-opcode kk picks the instruction, whose word has the same two fields. -/
theorem encodeWord_of_decodeKey (hc : fieldCategory w = 0xE) (h : decodeKey w = .ok i) : encodeWord i = w := by
  unfold decodeKey at h
  split at h <;> cases h <;> exact ofNat_codeXOP_fields hc ‹_›

/-- Category F: the sub-opcode kk picks the instruction, whose word has the same two fields. -/
theorem encodeWord_of_decodeMisc (hc : fieldCategory w = 0xF) (h : decodeMisc w = .ok i) : encodeWord i = w := by
  unfold decodeMisc at h
  split at h <;> cases h <;> exact ofNat_codeXOP_fields hc ‹_›

/-- Every category: the fields that the instruction keeps are those of its word. -/
theorem encodeWord_of_decodeFamily {c : Nat} (hc : fieldCategory w = c) (h : decodeFamily w c = .ok i) :
    encodeWord i = w := by
  unfold decodeFamily at h
  split at h
  -- Case h_(c + 1) is category c, and h_17 is none.
  case h_2 | h_3 | h_11 | h_12 => cases h; exact ofNat_codeADDR_fields hc
  case h_4 | h_5 | h_7 | h_8 | h_13 => cases h; exact ofNat_codeXKK_fields hc
  case h_6 | h_10 =>
    split at h <;> cases h
    exact ofNat_codeXYN_fields hc ‹_›
  case h_9 => exact encodeWord_of_decodeArith hc h
  case h_14 => cases h; exact ofNat_codeXYN_fields hc rfl
  case h_15 => exact encodeWord_of_decodeKey hc h
  case h_16 => exact encodeWord_of_decodeMisc hc h
  case h_1 | h_17 => cases h

end

/-- Settles O7: the two whole-word opcodes are the words of their instructions, and every other word is the number of
its fields. -/
theorem encodeOfDecodeIsIdentity : Obligations.EncodeOfDecodeIsIdentity := by
  intro w i h
  unfold decodeWord at h
  split at h
  case isTrue hcls => cases h; exact BitVec.eq_of_toNat_eq hcls.symm
  split at h
  case isTrue hret => cases h; exact BitVec.eq_of_toNat_eq hret.symm
  exact encodeWord_of_decodeFamily rfl h

end Sys2Proof
end

section
/-! PROOFS. The words that no pattern matches, family by family (spec/30_encoding.md R44, R48). -/

namespace Sys2Proof

section
variable (w : Word)

theorem bits_category : bits w 15 12 = fieldCategory w := by
  have hw := w.isLt
  simp only [bits, fieldCategory]
  omega

theorem bits_fieldN : bits w 3 0 = (fieldN w).val := by simp [bits, fieldN]

theorem bits_fieldKK : bits w 7 0 = (fieldKK w).toNat := by simp [bits, fieldKK]

theorem fieldCategory_lt : fieldCategory w < 16 := by
  have hw := w.isLt
  simp only [fieldCategory]
  omega

/-- Category 8: the sub-opcodes that R48 lists, and no other. -/
theorem decodeArith_unknown_iff :
    decodeArith w = .error (.unknown w) ↔ (fieldN w).val ∈ [0x8, 0x9, 0xA, 0xB, 0xC, 0xD, 0xF] := by
  have hn := (fieldN w).isLt
  unfold decodeArith
  split
  case h_10 =>
    simp only [imp_false, List.mem_cons, List.not_mem_nil, or_false, true_iff] at *
    omega
  all_goals simp [*]

/-- Category E: every sub-opcode but the two. -/
theorem decodeKey_unknown_iff :
    decodeKey w = .error (.unknown w) ↔ (fieldKK w).toNat ∉ [0x9E, 0xA1] := by
  unfold decodeKey
  split <;> simp_all

/-- Category F: every sub-opcode but the nine. -/
theorem decodeMisc_unknown_iff : decodeMisc w = .error (.unknown w) ↔
    (fieldKK w).toNat ∉ [0x07, 0x0A, 0x15, 0x18, 0x1E, 0x29, 0x33, 0x55, 0x65] := by
  unfold decodeMisc
  split <;> simp_all

/-- Every category: category 0 holds no pattern beside the two whole words, and only 5, 8, 9, E and F have others that
no pattern matches. -/
theorem decodeFamily_unknown_iff (c : Nat) (hc : c < 16) : decodeFamily w c = .error (.unknown w) ↔
    c = 0 ∨ (c = 5 ∧ (fieldN w).val ≠ 0) ∨
    (c = 8 ∧ (fieldN w).val ∈ [0x8, 0x9, 0xA, 0xB, 0xC, 0xD, 0xF]) ∨
    (c = 9 ∧ (fieldN w).val ≠ 0) ∨
    (c = 0xE ∧ (fieldKK w).toNat ∉ [0x9E, 0xA1]) ∨
    (c = 0xF ∧ (fieldKK w).toNat ∉ [0x07, 0x0A, 0x15, 0x18, 0x1E, 0x29, 0x33, 0x55, 0x65]) := by
  unfold decodeFamily
  split
  case h_6 | h_10 => by_cases hn : (fieldN w).val = 0 <;> simp [hn]
  case h_9 => simp [decodeArith_unknown_iff]
  case h_15 => simp [decodeKey_unknown_iff]
  case h_16 => simp [decodeMisc_unknown_iff]
  case h_17 =>
    simp only [imp_false] at *
    omega
  all_goals simp

/-- A word that is neither of the two whole-word opcodes is decoded by its category. -/
theorem decodeWord_eq_decodeFamily (hcls : w ≠ 0x00E0) (hret : w ≠ 0x00EE) :
    decodeWord w = decodeFamily w (fieldCategory w) := by
  have hcls' : w.toNat ≠ 0x00E0 := fun h => hcls (BitVec.eq_of_toNat_eq h)
  have hret' : w.toNat ≠ 0x00EE := fun h => hret (BitVec.eq_of_toNat_eq h)
  rw [decodeWord, if_neg hcls', if_neg hret']

/-- A whole-word opcode is of category 0, and no other word decodes differently from its category. -/
theorem decodeWord_unknown_iff : decodeWord w = .error (.unknown w) ↔
    decodeFamily w (fieldCategory w) = .error (.unknown w) ∧ w ≠ 0x00E0 ∧ w ≠ 0x00EE := by
  by_cases hcls : w = 0x00E0
  · subst hcls; decide
  by_cases hret : w = 0x00EE
  · subst hret; decide
  simp only [decodeWord_eq_decodeFamily w hcls hret, ne_eq, hcls, hret, not_false_eq_true, and_true]

end

/-- Settles O8: the unknown words of each family, without the two whole words of category 0. -/
theorem unknownWordsAreExactlyTheListed : Obligations.UnknownWordsAreExactlyTheListed := by
  intro w
  rw [decodeWord_unknown_iff, decodeFamily_unknown_iff w _ (fieldCategory_lt w), bits_category, bits_fieldN,
    bits_fieldKK]
  by_cases hzero : fieldCategory w = 0
  · simp [hzero]
  · have hcls : w ≠ 0x00E0 := fun h => hzero (h ▸ rfl)
    have hret : w ≠ 0x00EE := fun h => hzero (h ▸ rfl)
    simp only [hzero, hcls, hret, false_or, ne_eq, not_false_eq_true, and_true]

end Sys2Proof
end

section
/-! PROOFS. The frame of every instruction: the fields it may write, and that it answers a next state with every other
field as it was. -/

namespace Sys2Proof.Machine

/-- The field has the same value in both states, memory as it is held. -/
def Field.Same (s t : State) : Field → Prop
  | .mem => t.mem = s.mem
  | .v => t.v = s.v
  | .pc => t.pc = s.pc
  | .index => t.index = s.index
  | .stack => t.stack = s.stack
  | .sp => t.sp = s.sp
  | .dt => t.dt = s.dt
  | .st => t.st = s.st
  | .fb => t.fb = s.fb
  | .keys => t.keys = s.keys
  | .status => t.status = s.status
  | .diag => t.diag = s.diag
  | .randDraws => t.randDraws = s.randDraws
  | .loadOpen => t.loadOpen = s.loadOpen

/-- Every field that is not listed has the same value in both states: `State.AgreeExcept` with memory compared as it is
held. -/
def State.KeepsExcept (fields : List Field) (s t : State) : Prop := ∀ f, f ∉ fields → f.Same s t

/-- The fields that an instruction may write: the writers that spec/10_state.md names at each piece of state. -/
def writes : Instr → List Field
  | .cls => [.fb]
  | .ret => [.pc, .sp]
  | .call _ => [.pc, .stack, .sp]
  | .jp _ | .jpV0 _ | .seImm _ _ | .sneImm _ _ | .seReg _ _ | .sneReg _ _ | .skp _ | .sknp _ => [.pc]
  | .ldImm _ _ | .addImm _ _ | .ldReg _ _ | .orReg _ _ | .andReg _ _ | .xorReg _ _ | .addReg _ _ | .sub _ _ => [.v]
  | .shr _ _ | .subn _ _ | .shl _ _ | .ldVxDt _ | .ldVxMem _ => [.v]
  | .rnd _ _ => [.v, .randDraws]
  | .drw _ _ _ => [.v, .fb]
  | .ldVxK _ => [.v, .pc]
  | .ldI _ | .addIVx _ | .ldFVx _ => [.index]
  | .ldDtVx _ => [.dt]
  | .ldStVx _ => [.st]
  | .ldBVx _ | .ldMemVx _ => [.mem]

section
variable {fs gs : List Field} {s t : State} {i : Instr}

theorem State.KeepsExcept.refl : State.KeepsExcept fs s s := by
  intro f _
  cases f <;> rfl

theorem State.KeepsExcept.mono (h : State.KeepsExcept fs s t) (hsub : fs ⊆ gs) : State.KeepsExcept gs s t :=
  fun f hf => h f fun hmem => hf (hsub hmem)

/-- The frame field by field. -/
theorem State.keepsExcept_iff : State.KeepsExcept fs s t ↔
    (Field.mem ∉ fs → t.mem = s.mem) ∧ (Field.v ∉ fs → t.v = s.v) ∧ (Field.pc ∉ fs → t.pc = s.pc) ∧
    (Field.index ∉ fs → t.index = s.index) ∧ (Field.stack ∉ fs → t.stack = s.stack) ∧ (Field.sp ∉ fs → t.sp = s.sp) ∧
    (Field.dt ∉ fs → t.dt = s.dt) ∧ (Field.st ∉ fs → t.st = s.st) ∧ (Field.fb ∉ fs → t.fb = s.fb) ∧
    (Field.keys ∉ fs → t.keys = s.keys) ∧ (Field.status ∉ fs → t.status = s.status) ∧
    (Field.diag ∉ fs → t.diag = s.diag) ∧ (Field.randDraws ∉ fs → t.randDraws = s.randDraws) ∧
    (Field.loadOpen ∉ fs → t.loadOpen = s.loadOpen) := by
  refine ⟨fun h => ⟨h .mem, h .v, h .pc, h .index, h .stack, h .sp, h .dt, h .st, h .fb, h .keys, h .status, h .diag,
    h .randDraws, h .loadOpen⟩, ?_⟩
  rintro ⟨hmem, hv, hpc, hindex, hstack, hsp, hdt, hst, hfb, hkeys, hstatus, hdiag, hdraws, hload⟩ f
  cases f <;> assumption

theorem State.KeepsExcept.agreeExcept (h : State.KeepsExcept fs s t) : State.AgreeExcept fs s t := by
  obtain ⟨hmem, hv, hrest⟩ := State.keepsExcept_iff.mp h
  exact ⟨fun hf a => by rw [hmem hf], fun hf r => by rw [State.getV, State.getV, hv hf], hrest⟩

/-- An operation that can fail keeps what its effect keeps, and a failure changes the status only (R94). -/
theorem State.orFatal_frame (kind : FatalKind) {o : Option State} (h : ∀ u, o = some u → State.KeepsExcept fs s u) :
    ∃ u, s.orFatal kind o = .next u ∧ State.KeepsExcept (.status :: fs) s u := by
  cases o with
  | some u => exact ⟨u, rfl, (h u rfl).mono (List.subset_cons_self _ _)⟩
  | none => exact ⟨_, rfl, by simp [State.keepsExcept_iff, State.raiseFatal]⟩

/-- The frame of an operation that computes a value, or fails, before it writes. -/
theorem State.orFatal_map_frame {α : Type} (kind : FatalKind) (o : Option α) {f : α → State}
    (h : ∀ a, State.KeepsExcept fs s (f a)) :
    ∃ u, s.orFatal kind (o.map f) = .next u ∧ State.KeepsExcept (.status :: fs) s u := by
  refine State.orFatal_frame kind fun u hu => ?_
  obtain ⟨a, -, rfl⟩ := Option.map_eq_some_iff.mp hu
  exact h a

theorem State.writeRange_frame (lo : Nat) (bs : List Byte) :
    ∃ u, s.orFatal .outOfBounds (s.writeRange lo bs) = .next u ∧ State.KeepsExcept [.status, .mem] s u := by
  refine State.orFatal_frame .outOfBounds fun u hu => ?_
  obtain ⟨-, rfl⟩ := (s.writeRange_some lo bs u).mp hu
  simp [State.keepsExcept_iff]

/-- Every instruction answers a next state, and writes the fields listed for it and, where it fails, the status. -/
theorem exec_spec (i : Instr) (s : State) : ∃ t, exec i s = .next t ∧ State.KeepsExcept (.status :: writes i) s t := by
  cases i with
  | ret =>
    refine State.orFatal_frame .stackUnderflow fun u hu => ?_
    obtain ⟨⟨a, p⟩, hp, rfl⟩ := Option.map_eq_some_iff.mp hu
    obtain ⟨-, rfl, rfl⟩ := (s.pop_some a p).mp hp
    simp [State.keepsExcept_iff, writes]
  | call nnn =>
    refine State.orFatal_frame .stackOverflow fun u hu => ?_
    obtain ⟨p, hp, rfl⟩ := Option.map_eq_some_iff.mp hu
    obtain ⟨-, rfl⟩ := (s.push_some s.pc p).mp hp
    simp [State.keepsExcept_iff, writes]
  | ldVxK x =>
    simp only [exec, execLdVxK]
    split <;> exact ⟨_, rfl, by simp [State.keepsExcept_iff, writes, State.retreat_eq]⟩
  | ldBVx x => exact State.writeRange_frame _ _
  | ldMemVx x => exact State.writeRange_frame _ _
  | drw | addIVx | ldFVx | ldVxMem => exact State.orFatal_map_frame _ _ fun a => by simp [State.keepsExcept_iff, writes]
  | skp | sknp =>
    exact State.orFatal_map_frame _ _ fun a => by simp [State.keepsExcept_iff, writes, State.skipIf_eq]
  | seImm | sneImm | seReg | sneReg => exact ⟨_, rfl, by simp [State.keepsExcept_iff, writes, State.skipIf_eq]⟩
  | addReg | sub | shr | subn | shl =>
    exact ⟨_, rfl, by simp [State.keepsExcept_iff, writes, State.setResultAndFlag]⟩
  | rnd => exact ⟨_, rfl, by simp [State.keepsExcept_iff, writes, State.afterDraw]⟩
  | _ => exact ⟨_, rfl, by simp [State.keepsExcept_iff, writes]⟩

/-- No instruction stops the machine with a fault or a refusal: a fatal error is a next state too (R94). -/
theorem exec_next (i : Instr) (s : State) : ∃ t, exec i s = .next t := by
  obtain ⟨t, ht, -⟩ := exec_spec i s
  exact ⟨t, ht⟩

theorem exec_frame (h : exec i s = .next t) : State.KeepsExcept (.status :: writes i) s t := by
  obtain ⟨u, hu, hframe⟩ := exec_spec i s
  cases hu.symm.trans h
  exact hframe

/-- A field that an instruction does not write is as before, but for the status. -/
theorem exec_same (h : exec i s = .next t) (f : Field) (hstatus : f ≠ .status) (hf : f ∉ writes i) : f.Same s t :=
  exec_frame h f (List.not_mem_cons_of_ne_of_not_mem hstatus hf)

end

/-! ## The writers of each field -/

section
variable {i : Instr}

theorem mem_mem_writes (h : Field.mem ∈ writes i) : (∃ x, i = .ldBVx x) ∨ (∃ x, i = .ldMemVx x) := by
  cases i <;> simp_all [writes]

theorem index_mem_writes (h : Field.index ∈ writes i) :
    (∃ nnn, i = .ldI nnn) ∨ (∃ x, i = .addIVx x) ∨ (∃ x, i = .ldFVx x) := by
  cases i <;> simp_all [writes]

theorem stack_mem_writes (h : Field.stack ∈ writes i) : ∃ nnn, i = .call nnn := by
  cases i <;> simp_all [writes]

theorem sp_mem_writes (h : Field.sp ∈ writes i) : i = .ret ∨ ∃ nnn, i = .call nnn := by
  cases i <;> simp_all [writes]

theorem dt_mem_writes (h : Field.dt ∈ writes i) : ∃ x, i = .ldDtVx x := by
  cases i <;> simp_all [writes]

theorem st_mem_writes (h : Field.st ∈ writes i) : ∃ x, i = .ldStVx x := by
  cases i <;> simp_all [writes]

theorem fb_mem_writes (h : Field.fb ∈ writes i) : i = .cls ∨ ∃ x y n, i = .drw x y n := by
  cases i <;> simp_all [writes]

theorem randDraws_mem_writes (h : Field.randDraws ∈ writes i) : ∃ x kk, i = .rnd x kk := by
  cases i <;> simp_all [writes]

theorem keys_not_mem_writes : Field.keys ∉ writes i := by
  cases i <;> simp [writes]

end

end Sys2Proof.Machine
end

section
/-! PROOFS. A whole cycle: the word it executes, where it stops, and what follows an unknown word (spec/30_encoding.md
R43, R47; spec/60_exceptions.md R94, R96). -/

namespace Sys2Proof.Machine

section
variable {s t u : State} {w : Word} {i : Instr}

/-- The timers do not tick after an instruction that halts the machine (R47, R94). -/
theorem finishCycle_of_halted {kind : FatalKind} (hu : u.status = .halted kind) : finishCycle (.next u) = .next u := by
  rw [finishCycle, hu]

/-- The end of a cycle that answers a next state is a next state too. -/
theorem finishCycle_exists (u : State) : ∃ t, finishCycle (.next u) = .next t := by
  cases hu : u.status with
  | running => exact ⟨_, finishCycle_of_running hu⟩
  | halted kind => exact ⟨_, finishCycle_of_halted hu⟩

/-- A running machine executes the word at pc, and the end of the cycle follows (R47). -/
theorem State.AtWord.step_eq (h : s.AtWord w) : step s = finishCycle (execWord w s.fetched) := by
  have hrun : s.status = .running := h.1
  simp only [step, cycle, hrun, runCycle, h.fetch_eq]

/-- A fetch from the last byte of memory or past it fails, and the machine halts (R43). -/
theorem step_of_fetch_none (hrun : s.status = .running) (hpc : 4095 ≤ s.pc.toNat) :
    step s = .next (s.closeLoad.raiseFatal .outOfBounds) := by
  have hfetch : s.closeLoad.fetch = none := s.closeLoad.fetch_none.mpr (Nat.lt_succ_of_le hpc)
  simp only [step, cycle, hrun, runCycle, hfetch]

/-- A halted machine takes no further step (R94). -/
theorem step_of_halted {kind : FatalKind} (h : s.status = .halted kind) : step s = .fault (.halted kind) := by
  simp only [step, cycle, h]

theorem execWord_of_ok (hi : decodeWord w = .ok i) : execWord w s = exec i s := by
  simp only [execWord, hi]

theorem execWord_of_error {r : DecodeReject} (hr : decodeWord w = .error r) :
    execWord w s = .next (s.reportUnknown w) := by
  simp only [execWord, hr]

/-- The execution of a word answers a next state, whatever the word. -/
theorem execWord_exists (w : Word) (s : State) : ∃ t, execWord w s = .next t := by
  cases hw : decodeWord w with
  | ok i => rw [execWord_of_ok hw]; exact exec_next i s
  | error r => exact ⟨_, execWord_of_error hw⟩

/-- A report of an unknown word writes the reports only (R96). -/
theorem State.reportUnknown_frame (s : State) (w : Word) : State.KeepsExcept [.diag] s (s.reportUnknown w) := by
  simp [State.keepsExcept_iff, State.reportUnknown]

/-- A field that no instruction of the word writes is as before, but for the status and the reports. -/
theorem execWord_same (h : execWord w s = .next t) (f : Field) (hf : f ∉ [.status, .diag])
    (hw : ∀ i, decodeWord w = .ok i → f ∉ writes i) : f.Same s t := by
  simp only [List.mem_cons, List.not_mem_nil, or_false, not_or] at hf
  obtain ⟨hstatus, hdiag⟩ := hf
  cases hd : decodeWord w with
  | ok i =>
    rw [execWord_of_ok hd] at h
    exact exec_same h f hstatus (hw i hd)
  | error r =>
    rw [execWord_of_error hd] at h
    cases h
    exact s.reportUnknown_frame w f (mt List.mem_singleton.mp hdiag)

/-- The word at pc of a running machine whose fetch succeeds. -/
theorem State.exists_atWord (hrun : s.status = .running) (hpc : s.pc.toNat < 4095) : ∃ w, s.AtWord w :=
  ⟨_, hrun, hpc, rfl⟩

/-- What a step that answers a next state did: the fetch failed and the machine halted, or the word at pc was executed,
and the timers ticked unless that halted the machine. -/
theorem step_cases (h : step s = .next t) : s.status = .running ∧
    ((4095 ≤ s.pc.toNat ∧ t = s.closeLoad.raiseFatal .outOfBounds) ∨
      ∃ w u, s.AtWord w ∧ execWord w s.fetched = .next u ∧ (t = u.tickTimers ∨ t = u)) := by
  obtain ⟨hrun, -⟩ := step_next s t h
  refine ⟨hrun, ?_⟩
  rcases Nat.lt_or_ge s.pc.toNat 4095 with hpc | hpc
  · obtain ⟨w, hw⟩ := State.exists_atWord hrun hpc
    rw [hw.step_eq] at h
    obtain ⟨u, hu, ⟨-, ht⟩ | ⟨-, -, ht⟩⟩ := finishCycle_next _ t h
    · exact .inr ⟨w, u, hw, hu, .inl ht⟩
    · exact .inr ⟨w, u, hw, hu, .inr ht⟩
  · rw [step_of_fetch_none hrun hpc] at h
    cases h
    exact .inl ⟨hpc, rfl⟩

/-- What a cycle that left the machine running did: it executed the word, and the timers ticked. -/
theorem Ran.executed (h : Ran s w t) :
    ∃ u, execWord w s.fetched = .next u ∧ u.status = .running ∧ t = u.tickTimers := by
  obtain ⟨hw, hstep, hrun⟩ := h
  rw [hw.step_eq] at hstep
  obtain ⟨u, hu, ⟨hur, ht⟩ | ⟨kind, huh, rfl⟩⟩ := finishCycle_next _ t hstep
  · exact ⟨u, hu, hur, ht⟩
  · cases huh.symm.trans hrun

end

/-- Settles O10: after an instruction that leaves the machine running the timers tick, and after one that halts it they
do not. -/
theorem stepRunsDecodedInstruction : Obligations.StepRunsDecodedInstruction := by
  intro s w i t hw hi he
  refine ⟨fun hrun => step_of_exec hw hi he hrun, fun kind hhalt => ?_⟩
  have he' : exec i s.fetched = .next t := he
  rw [step_of_atWord hw hi, he', finishCycle_of_halted hhalt]

/-- Settles O11: the fetch fails, which halts the machine. -/
theorem fetchPastTheEndHalts : Obligations.FetchPastTheEndHalts := fun s hrun hpc =>
  ⟨_, step_of_fetch_none hrun hpc, s.closeLoad.raiseFatal_status _⟩

/-- Settles O12: the fetch fails or its word is executed, and both answer a next state; a halted machine faults. -/
theorem stepStopsExactlyWhenHalted : Obligations.StepStopsExactlyWhenHalted := by
  refine fun s => ⟨⟨fun hrun => ?_, fun ⟨t, ht⟩ => (step_next s t ht).1⟩, fun kind h => step_of_halted h⟩
  rcases Nat.lt_or_ge s.pc.toNat 4095 with hpc | hpc
  · obtain ⟨w, hw⟩ := State.exists_atWord hrun hpc
    obtain ⟨u, hu⟩ := execWord_exists w s.fetched
    rw [hw.step_eq, hu]
    exact finishCycle_exists u
  · exact ⟨_, step_of_fetch_none hrun hpc⟩

/-- Settles O13: the cycle appends its report, with pc back at the word's address, and the timers tick. -/
theorem unknownWordIsReportedAndSkipped : Obligations.UnknownWordIsReportedAndSkipped := by
  intro s w hw hd
  have hrun : (s.fetched.reportUnknown w).status = .running := hw.1
  have hstep : step s = .next (s.fetched.reportUnknown w).tickTimers := by
    rw [hw.step_eq, execWord_of_error hd, finishCycle_of_running hrun]
  refine ⟨_, hstep, rfl, ?_, toNat_tick s.dt, toNat_tick s.st, ?_⟩
  · simp [State.tickTimers, State.reportUnknown, State.fetched]
  · simp [State.AgreeExcept, State.tickTimers, State.reportUnknown, State.fetched]

end Sys2Proof.Machine
end

section
/-! PROOFS. Which cycles change a field: the timers, the framebuffer, memory, I, the call stack, the keys and the random
draws (spec/10_state.md R17 to R23; spec/20_memory.md R35; spec/60_exceptions.md R102, R107). -/

namespace Sys2Proof.Machine

/-- Settles O14: an instruction other than the setter leaves the timer to the tick. -/
theorem timersCountDownEveryCycle : Obligations.TimersCountDownEveryCycle := by
  intro s w t h
  obtain ⟨u, hu, -, rfl⟩ := h.executed
  refine ⟨fun hne => ?_, fun hne => ?_⟩
  · have hdt : u.dt = s.dt := execWord_same hu .dt (by decide) fun i hi hmem => by
      obtain ⟨x, rfl⟩ := dt_mem_writes hmem
      exact hne x hi
    rw [State.tickTimers_dt, toNat_tick, hdt]
  · have hst : u.st = s.st := execWord_same hu .st (by decide) fun i hi hmem => by
      obtain ⟨x, rfl⟩ := st_mem_writes hmem
      exact hne x hi
    rw [State.tickTimers_st, toNat_tick, hst]

/-- A run of one more step is the step, then the rest of the run. -/
theorem core_run_succ {s t : State} (k : Nat) (h : step s = .next t) :
    Host.Core.run Sys2Proof.core (k + 1) s = Host.Core.run Sys2Proof.core k t := by
  have hcore : Sys2Proof.core.step s = .next t := h
  simp only [Host.Core.run, hcore]

/-- Settles O15, by induction on the number of cycles: each one drops the timer by one (O14). -/
theorem delayTimerAfterManyCycles : Obligations.DelayTimerAfterManyCycles := by
  intro k
  induction k with
  | zero => exact fun s _ => ⟨s, rfl, rfl⟩
  | succ k ih =>
    rintro s ⟨w, t, hran, hne, hrest⟩
    obtain ⟨u, hu, hdt⟩ := ih t hrest
    have hstep : step s = .next t := hran.2.1
    have hone : t.dt.toNat = s.dt.toNat - 1 := (timersCountDownEveryCycle s w t hran).1 hne
    refine ⟨u, ?_, by omega⟩
    rw [core_run_succ k hstep, hu]

/-- Settles O17: 00E0 and Dxyn are the writers of the framebuffer. -/
theorem framebufferWrittenOnlyByDisplay : Obligations.FramebufferWrittenOnlyByDisplay := by
  intro s w t h hcls hdrw
  obtain ⟨u, hu, -, rfl⟩ := h.executed
  exact execWord_same hu .fb (by decide) fun i hi hmem => by
    obtain rfl | ⟨x, y, n, rfl⟩ := fb_mem_writes hmem
    · exact hcls hi
    · exact hdrw x y n hi

/-- Settles O18: Fx33 and Fx55 are the writers of memory. -/
theorem memoryWrittenOnlyByStores : Obligations.MemoryWrittenOnlyByStores := by
  intro s w t h hdecimal hdump
  obtain ⟨u, hu, -, rfl⟩ := h.executed
  exact execWord_same hu .mem (by decide) fun i hi hmem => by
    obtain ⟨x, rfl⟩ | ⟨x, rfl⟩ := mem_mem_writes hmem
    · exact hdecimal x hi
    · exact hdump x hi

/-- Settles O19: Annn, Fx1E and Fx29 are the writers of I. -/
theorem indexWrittenOnlyByThree : Obligations.IndexWrittenOnlyByThree := by
  intro s w t h hload hadd hglyph
  obtain ⟨u, hu, -, rfl⟩ := h.executed
  exact execWord_same hu .index (by decide) fun i hi hmem => by
    obtain ⟨nnn, rfl⟩ | ⟨x, rfl⟩ | ⟨x, rfl⟩ := index_mem_writes hmem
    · exact hload nnn hi
    · exact hadd x hi
    · exact hglyph x hi

/-- Settles O20: 2nnn writes the entries, and 2nnn and 00EE write the pointer. -/
theorem stackChangedOnlyByCallAndReturn : Obligations.StackChangedOnlyByCallAndReturn := by
  intro s w t h hret hcall
  obtain ⟨u, hu, -, rfl⟩ := h.executed
  constructor
  · exact execWord_same hu .stack (by decide) fun i hi hmem => by
      obtain ⟨nnn, rfl⟩ := stack_mem_writes hmem
      exact hcall nnn hi
  · exact execWord_same hu .sp (by decide) fun i hi hmem => by
      obtain rfl | ⟨nnn, rfl⟩ := sp_mem_writes hmem
      · exact hret hi
      · exact hcall nnn hi

/-- Settles O21: no instruction writes the keys, and neither does a failed fetch or the tick. -/
theorem coreNeverWritesKeys : Obligations.CoreNeverWritesKeys := by
  intro s t h
  obtain ⟨-, ⟨-, rfl⟩ | ⟨w, u, -, hu, ht⟩⟩ := step_cases h
  · rfl
  · have hkeys : u.keys = s.keys := execWord_same hu .keys (by decide) fun i _ => keys_not_mem_writes
    obtain rfl | rfl := ht
    · exact hkeys
    · exact hkeys

/-- Settles O23: Cxkk counts one draw, and no other instruction writes the count. -/
theorem oneDrawForEachRandomInstruction : Obligations.OneDrawForEachRandomInstruction := by
  intro s w t h
  obtain ⟨u, hu, -, rfl⟩ := h.executed
  refine ⟨fun ⟨x, kk, hi⟩ => ?_, fun hne => ?_⟩
  · rw [execWord_of_ok hi] at hu
    cases hu
    rfl
  · exact execWord_same hu .randDraws (by decide) fun i hi hmem => by
      obtain ⟨x, kk, rfl⟩ := randDraws_mem_writes hmem
      exact hne x kk hi

end Sys2Proof.Machine
end

section
/-! PROOFS. The jumps 1nnn and Bnnn, the call 2nnn, and the skips 5xy0 and 9xy0 (spec/41_flow.md R58, R59, R62 to
R64). -/

namespace Sys2Proof.Machine

section
variable (nnn : Addr) (x y : Reg) (s : State)

theorem exec_jp : exec (.jp nnn) s = .next (s.setPc (addrWord nnn)) := rfl

theorem exec_jpV0 : exec (.jpV0 nnn) s = .next (s.setPc (offsetTarget (s.getV 0) nnn)) := rfl

theorem exec_seReg : exec (.seReg x y) s = .next (s.skipIf (decide (s.getV x = s.getV y))) := rfl

theorem exec_sneReg : exec (.sneReg x y) s = .next (s.skipIf (decide (s.getV x ≠ s.getV y))) := rfl

/-- A call with all 16 entries taken is a stack overflow (R19, R59). -/
theorem exec_call_of_full (h : s.sp.val = 16) : exec (.call nnn) s = .next (s.raiseFatal .stackOverflow) := by
  rw [exec, execCall, (s.push_none s.pc).mpr h, Option.map_none, State.orFatal_none]

/-- The frame of a call: the entries, the pointer and pc are written, and no other field. -/
theorem State.agreeExcept_pushed (k : Vector Word 16) (n : Fin 17) (a : Word) :
    State.AgreeExcept [.pc, .sp, .stack] s ((s.setStack k n).setPc a) := by
  simp [State.AgreeExcept]

end

/-- Settles O31: both are skips on a comparison of two registers, one on equality and the other on its negation. -/
theorem skipOnRegisterComparison : Obligations.SkipOnRegisterComparison := by
  refine ⟨fun x y => ⟨decodesAs_of_encodeNat (codeXYN_eq 0x5 x y 0x0), decodesAs_of_encodeNat (codeXYN_eq 0x9 x y 0x0)⟩,
    fun x y s => ⟨?_, ?_⟩⟩
  · exact ⟨_, exec_seReg x y s, s.skipIf_spec (s.getV x = s.getV y)⟩
  · obtain ⟨hskip, hstay, hframe⟩ := s.skipIf_spec (s.getV x ≠ s.getV y)
    exact ⟨_, exec_sneReg x y s, hskip, fun h => hstay (not_not_intro h), hframe⟩

/-- Settles O32: the jump target is the sum of the two numbers, which 16 bits hold. -/
theorem jumpAddsV0 : Obligations.JumpAddsV0 :=
  ⟨fun _ => decodesAs_of_encodeNat rfl, fun nnn s =>
    ⟨_, exec_jpV0 nnn s, toNat_offsetTarget (s.getV 0) nnn, s.agreeExcept_setPc _⟩⟩

/-- Settles O29: a call writes pc into the entry at the pointer and jumps, or overflows where no entry is free. -/
theorem callPushesReturnAddress : Obligations.CallPushesReturnAddress := by
  refine ⟨fun _ => decodesAs_of_encodeNat rfl, fun nnn s => ⟨fun j hj => ?_, fun hfull => ?_⟩⟩
  · refine ⟨_, exec_call_of_lt nnn s (by omega), ?_, fun k hk => ?_, ?_, toNat_addrWord nnn, s.agreeExcept_pushed _ _ _⟩
    · simp [hj]
    · have hne : j.val ≠ k.val := fun h => hk (Fin.ext h.symm)
      simp [hj, hne]
    · simp [hj]
  · exact ⟨_, exec_call_of_full nnn s hfull, s.raiseFatal_status _⟩

/-- The address of a 1nnn at pc that jumps to itself, as its word holds it. -/
theorem addrWord_ofNat (a : Word) (ha : a.toNat ≤ 4095) : addrWord (BitVec.ofNat 12 a.toNat) = a := by
  apply BitVec.eq_of_toNat_eq
  rw [toNat_addrWord, BitVec.toNat_ofNat]
  omega

/-- The whole cycle of a jump to its own address: only the timers tick (R58). -/
theorem step_self_jump (s : State) (h : s.AtWord (BitVec.ofNat 16 (0x1000 + s.pc.toNat))) :
    step s = .next (s.closeLoad.tickTimers) := by
  have hpc : s.pc.toNat ≤ 4095 := by have := h.2.1; omega
  have hdec : DecodesAs (0x1000 + s.pc.toNat) (.jp (BitVec.ofNat 12 s.pc.toNat)) := by
    refine decodesAs_of_encodeNat ?_
    rw [encodeNat, codeADDR, BitVec.toNat_ofNat]
    omega
  have hrun : s.status = .running := h.1
  rw [step_of_exec h hdec (exec_jp _ _) hrun, addrWord_ofNat s.pc hpc]
  rfl

/-- Settles O28: a jump writes pc only, so one to its own address leaves it over the cycle, and one to 0xFFF leaves the
next fetch no second byte. -/
theorem jumpSetsPc : Obligations.JumpSetsPc := by
  refine ⟨fun _ => decodesAs_of_encodeNat rfl, fun nnn s => ?_, fun s h => ?_, fun s hrun => ?_⟩
  · exact ⟨_, exec_jp nnn s, toNat_addrWord nnn, s.agreeExcept_setPc _⟩
  · exact ⟨_, step_self_jump s h, rfl⟩
  · exact ⟨_, exec_jp 0xFFF s, fetchPastTheEndHalts _ hrun (toNat_addrWord 0xFFF).ge⟩

end Sys2Proof.Machine
end

section
/-! PROOFS. A complete program (spec/70_reset_and_hazards.md R115). -/

namespace Sys2Proof.Machine

/-- The two bytes of a complete program are the word that jumps to its own address. -/
theorem State.Complete.atWord {s : State} (h : s.Complete) : s.AtWord (BitVec.ofNat 16 (0x1000 + s.pc.toNat)) := by
  obtain ⟨hrun, hpc, hhi, hlo⟩ := h
  refine ⟨hrun, hpc, ?_⟩
  rw [wordOfBytes, hhi, hlo]
  congr 1
  omega

/-- Settles O56: the cycle jumps to its own address, so it leaves the program complete and ticks the timers only. -/
theorem completeProgramChangesOnlyTimers : Obligations.CompleteProgramChangesOnlyTimers := by
  intro s h
  refine ⟨_, step_self_jump s h.atWord, h, toNat_tick s.dt, toNat_tick s.st, ?_⟩
  simp [State.AgreeExcept, State.tickTimers]

end Sys2Proof.Machine
end

section
/-! PROOFS. The instructions that write a result and its flag, 8xy4 to 8xy7 and 8xyE, and Cxkk (spec/42_alu.md R66, R73
to R78). -/

namespace Sys2Proof.Machine

section
variable (x y : Reg) (kk : Byte) (s : State)

/-- VF holds the flag, whatever the destination (R66). -/
theorem State.getV_setResultAndFlag_flag (b f : Byte) : (s.setResultAndFlag x b f).getV 15 = f := by simp

/-- A destination other than VF holds the result. -/
theorem State.getV_setResultAndFlag_result (b f : Byte) (hx : x ≠ 15) : (s.setResultAndFlag x b f).getV x = b := by
  simp [hx]

/-- What a result and its flag change: their two registers and nothing else. -/
theorem State.setResultAndFlag_frame (b f : Byte) : State.RegsExcept [x, 15] s (s.setResultAndFlag x b f) ∧
    State.AgreeExcept [.v] s (s.setResultAndFlag x b f) := by
  constructor
  · intro r hr
    simp only [List.mem_cons, List.not_mem_nil, or_false, not_or] at hr
    rw [State.getV_setResultAndFlag, if_neg hr.2, if_neg hr.1]
  · simp [State.AgreeExcept, State.setResultAndFlag]

theorem exec_addReg : exec (.addReg x y) s =
    .next (s.setResultAndFlag x (s.getV x + s.getV y) (flagCarry (s.getV x) (s.getV y))) := rfl

theorem exec_sub : exec (.sub x y) s =
    .next (s.setResultAndFlag x (s.getV x - s.getV y) (flagGreater (s.getV x) (s.getV y))) := rfl

theorem exec_subn : exec (.subn x y) s =
    .next (s.setResultAndFlag x (s.getV y - s.getV x) (flagGreater (s.getV y) (s.getV x))) := rfl

theorem exec_shr : exec (.shr x y) s =
    .next (s.setResultAndFlag x (s.getV x >>> 1) (flagLowBit (s.getV x))) := rfl

theorem exec_shl : exec (.shl x y) s =
    .next (s.setResultAndFlag x (s.getV x <<< 1) (flagHighBit (s.getV x))) := rfl

theorem exec_rnd : exec (.rnd x kk) s = .next (s.afterDraw.setV x (s.rand &&& kk)) := rfl

end

section
variable (a b : Byte)

theorem flagCarry_eq : flagCarry a b = if 255 < a.toNat + b.toNat then 1 else 0 := by simp [flagCarry, flag]

theorem flagGreater_eq : flagGreater a b = if b.toNat < a.toNat then 1 else 0 := by simp [flagGreater, flag]

theorem toNat_flagLowBit : (flagLowBit a).toNat = a.toNat % 2 := by
  rw [flagLowBit, BitVec.toNat_ofNat]
  omega

theorem toNat_flagHighBit : (flagHighBit a).toNat = a.toNat / 128 := by
  have ha := a.isLt
  rw [flagHighBit, BitVec.toNat_ofNat]
  omega

/-- The difference of two bytes, wrapped at 256 (R65). -/
theorem toNat_byte_sub : (a - b).toNat = (a.toNat + 256 - b.toNat) % 256 := by
  have hb := b.isLt
  rw [BitVec.toNat_sub]
  omega

theorem toNat_byte_shiftRight_one : (a >>> 1).toNat = a.toNat / 2 := by
  rw [BitVec.toNat_ushiftRight, Nat.shiftRight_eq_div_pow, pow_one]

theorem toNat_byte_shiftLeft_one : (a <<< 1).toNat = a.toNat * 2 % 256 := by
  rw [BitVec.toNat_shiftLeft, Nat.shiftLeft_eq, pow_one]

end

/-- Settles O37: the result is the byte sum, and the flag is its carry. -/
theorem addWithCarry : Obligations.AddWithCarry := by
  refine ⟨fun x y => decodesAs_of_encodeNat (codeXYN_eq 0x8 x y 0x4), fun x y s =>
    ⟨_, exec_addReg x y s, fun hx => ?_, ?_, s.setResultAndFlag_frame x _ _⟩⟩
  · rw [State.getV_setResultAndFlag_result x s _ _ hx, BitVec.toNat_add]
  · rw [State.getV_setResultAndFlag_flag, flagCarry_eq]

/-- Settles O38: the results are the byte differences, and each flag compares the minuend with the subtrahend. -/
theorem subtractWithStrictFlag : Obligations.SubtractWithStrictFlag := by
  refine ⟨fun x y => ⟨decodesAs_of_encodeNat (codeXYN_eq 0x8 x y 0x5), decodesAs_of_encodeNat (codeXYN_eq 0x8 x y 0x7)⟩,
    fun x y s => ⟨⟨_, exec_sub x y s, fun hx => ?_, ?_, s.setResultAndFlag_frame x _ _⟩,
      ⟨_, exec_subn x y s, fun hx => ?_, ?_, s.setResultAndFlag_frame x _ _⟩⟩⟩
  · rw [State.getV_setResultAndFlag_result x s _ _ hx, toNat_byte_sub]
  · rw [State.getV_setResultAndFlag_flag, flagGreater_eq]
  · rw [State.getV_setResultAndFlag_result x s _ _ hx, toNat_byte_sub]
  · rw [State.getV_setResultAndFlag_flag, flagGreater_eq]

/-- Settles O39: the results are half and double, and each flag is the bit that the shift loses. -/
theorem shiftByOneWithFlag : Obligations.ShiftByOneWithFlag := by
  refine ⟨fun x y => ⟨decodesAs_of_encodeNat (codeXYN_eq 0x8 x y 0x6), decodesAs_of_encodeNat (codeXYN_eq 0x8 x y 0xE)⟩,
    fun x y s => ⟨⟨_, exec_shr x y s, fun hx => ?_, ?_, s.setResultAndFlag_frame x _ _⟩,
      ⟨_, exec_shl x y s, fun hx => ?_, ?_, s.setResultAndFlag_frame x _ _⟩⟩⟩
  · rw [State.getV_setResultAndFlag_result x s _ _ hx, toNat_byte_shiftRight_one]
  · rw [State.getV_setResultAndFlag_flag, toNat_flagLowBit]
  · rw [State.getV_setResultAndFlag_result x s _ _ hx, toNat_byte_shiftLeft_one]
  · rw [State.getV_setResultAndFlag_flag, toNat_flagHighBit]

/-- Settles O40: the register takes the drawn byte under the mask, and the draw is counted. -/
theorem randomByteIsMasked : Obligations.RandomByteIsMasked := by
  refine ⟨fun _ _ => decodesAs_of_encodeNat rfl, fun x kk s => ⟨_, exec_rnd x kk s, ?_, fun k hk => ?_, rfl, ?_, ?_⟩⟩
  · rw [State.getV_setV_self, State.rand]
  · rw [State.getV_setV_self, BitVec.getLsbD_and, hk, Bool.and_false]
  · exact s.afterDraw.regsExcept_setV x _
  · simp [State.AgreeExcept, State.afterDraw]

end Sys2Proof.Machine
end

section
/-! PROOFS. Fx1E and Fx29 (spec/43_index_memory.md R80, R81). -/

namespace Sys2Proof.Machine

section
variable (x : Reg) (s : State)

/-- Fx1E where the sum fits 16 bits. -/
theorem exec_addIVx_of_some {a : Word} (h : indexSum s.index (s.getV x) = some a) :
    exec (.addIVx x) s = .next (s.setIndex a) := by
  rw [exec, execAddIVx, h, Option.map_some, State.orFatal_some]

theorem exec_addIVx_of_none (h : indexSum s.index (s.getV x) = none) :
    exec (.addIVx x) s = .next (s.raiseFatal .outOfBounds) := by
  rw [exec, execAddIVx, h, Option.map_none, State.orFatal_none]

/-- Fx29 where the register holds a digit. -/
theorem exec_ldFVx_of_some {d : Fin 16} (h : nibbleIndex (s.getV x) = some d) :
    exec (.ldFVx x) s = .next (s.setIndex (glyphAddr d)) := by
  rw [exec, execLdFVx, h, Option.map_some, State.orFatal_some]

theorem exec_ldFVx_of_none (h : nibbleIndex (s.getV x) = none) :
    exec (.ldFVx x) s = .next (s.raiseFatal .outOfBounds) := by
  rw [exec, execLdFVx, h, Option.map_none, State.orFatal_none]

end

/-- Settles O42: the sum is computed without wrap, and one that 16 bits do not hold is fatal. -/
theorem addRegisterToIndex : Obligations.AddRegisterToIndex := by
  refine ⟨fun x => decodesAs_of_encodeNat (codeXOP_eq 0xF x 0x1E), fun x s => ⟨fun hle => ?_, fun hgt => ?_⟩⟩
  · have hsum : (BitVec.ofNat 16 (s.index.toNat + (s.getV x).toNat)).toNat = s.index.toNat + (s.getV x).toNat := by
      rw [BitVec.toNat_ofNat]
      omega
    exact ⟨_, exec_addIVx_of_some x s ((indexSum_some _ _ _).mpr hsum.symm), hsum, s.agreeExcept_setIndex _⟩
  · exact ⟨_, exec_addIVx_of_none x s ((indexSum_none _ _).mpr hgt), s.raiseFatal_status _⟩

/-- Settles O43: a digit's glyph is at its address, and a byte above 15 is no digit. -/
theorem pointIndexToGlyph : Obligations.PointIndexToGlyph := by
  refine ⟨fun x => decodesAs_of_encodeNat (codeXOP_eq 0xF x 0x29), fun x s => ⟨fun hle => ?_, fun hgt => ?_⟩⟩
  · have hdigit : nibbleIndex (s.getV x) = some ⟨(s.getV x).toNat, Nat.lt_succ_of_le hle⟩ :=
      (nibbleIndex_some _ _).mpr rfl
    exact ⟨_, exec_ldFVx_of_some x s hdigit, toNat_glyphAddr _, s.agreeExcept_setIndex _⟩
  · exact ⟨_, exec_ldFVx_of_none x s ((nibbleIndex_none _).mpr hgt), s.raiseFatal_status _⟩

end Sys2Proof.Machine
end

section
/-! PROOFS. The stores Fx33 and Fx55 and the load Fx65 (spec/43_index_memory.md R82 to R85; spec/20_memory.md R32,
R38). -/

namespace Sys2Proof.Machine

section
variable (x : Reg) (s : State)

/-- The frame of a memory write: replacing memory keeps every other field. -/
theorem State.agreeExcept_setMem (m : Memory) : State.AgreeExcept [.mem] s (s.setMem m) := by
  simp [State.AgreeExcept]

/-- Bytes written from a leave every byte outside their range. -/
theorem State.bytesExcept_writeBytes (a : Nat) (bs : List Byte) :
    State.BytesExcept a bs.length s (s.setMem (Memory.writeBytes s.mem a bs)) := by
  intro b hb
  rw [State.setMem_mem, Memory.read_writeBytes, if_neg (by omega)]

/-- What bytes written from a change: their range of memory and nothing else. -/
theorem State.writeBytes_frame (a : Nat) (bs : List Byte) :
    State.BytesExcept a bs.length s (s.setMem (Memory.writeBytes s.mem a bs)) ∧
      State.AgreeExcept [.mem] s (s.setMem (Memory.writeBytes s.mem a bs)) :=
  ⟨s.bytesExcept_writeBytes a bs, s.agreeExcept_setMem _⟩

/-- A byte read from where it was written. -/
theorem Memory.read_writeBytes_of_lt (m : Memory) (a j : Nat) {bs : List Byte} (hj : j < bs.length) :
    Memory.read (Memory.writeBytes m a bs) (a + j) = bs.getD j 0 := by
  rw [Memory.read_writeBytes, if_pos (by omega), Nat.add_sub_cancel_left]

theorem exec_ldBVx_of_le (h : s.index.toNat + 3 ≤ 4096) : exec (.ldBVx x) s =
    .next (s.setMem (Memory.writeBytes s.mem s.index.toNat (decimalDigits (s.getV x)))) := by
  rw [exec, execLdBVx, (s.writeRange_some _ _ _).mpr ⟨h, rfl⟩, State.orFatal_some]

theorem exec_ldBVx_of_lt (h : 4096 < s.index.toNat + 3) :
    exec (.ldBVx x) s = .next (s.raiseFatal .outOfBounds) := by
  rw [exec, execLdBVx, (s.writeRange_none _ _).mpr h, State.orFatal_none]

theorem exec_ldMemVx_of_le (h : s.index.toNat + x.val + 1 ≤ 4096) :
    exec (.ldMemVx x) s = .next (s.setMem (Memory.writeBytes s.mem s.index.toNat (s.dump x))) := by
  rw [exec, execLdMemVx, (s.writeRange_some _ _ _).mpr ⟨by rwa [s.length_dump x], rfl⟩, State.orFatal_some]

theorem exec_ldMemVx_of_lt (h : 4096 < s.index.toNat + x.val + 1) :
    exec (.ldMemVx x) s = .next (s.raiseFatal .outOfBounds) := by
  rw [exec, execLdMemVx, (s.writeRange_none _ _).mpr (by rwa [s.length_dump x]), State.orFatal_none]

/-- Fx55 stores V[j] at I + j for every j up to x. -/
theorem State.read_dumped (j : Reg) (hj : j ≤ x) :
    Memory.read (Memory.writeBytes s.mem s.index.toNat (s.dump x)) (s.index.toNat + j.val) = s.getV j := by
  have hlen : j.val < (s.dump x).length := by rw [s.length_dump x]; exact Nat.lt_succ_of_le hj
  rw [Memory.read_writeBytes_of_lt _ _ _ hlen, s.getD_dump x j hj]

/-- The register file that Fx65 loads. -/
def State.loaded : Vector Byte 16 := loadRegs s.v 0 (Memory.readBytes s.mem s.index.toNat (x.val + 1))

/-- A register that Fx65 loads takes its byte of memory, and one above x is kept. -/
theorem State.getV_loaded (j : Reg) : (s.setVs (s.loaded x)).getV j =
    if j ≤ x then Memory.read s.mem (s.index.toNat + j.val) else s.getV j := by
  have hload := getElem_loadRegs (Memory.readBytes s.mem s.index.toNat (x.val + 1)) s.v 0 j
  rw [Memory.length_readBytes] at hload
  rw [State.getV, State.setVs_v, State.loaded, hload]
  by_cases hj : j ≤ x
  · have hlt : j.val < x.val + 1 := Nat.lt_succ_of_le hj
    rw [if_pos (by omega), if_pos hj, Nat.sub_zero, Memory.getD_readBytes _ _ _ _ hlt]
  · have hge : ¬ j.val < x.val + 1 := fun h => hj (Nat.le_of_lt_succ h)
    rw [if_neg (by omega), if_neg hj, State.getV]

theorem exec_ldVxMem_of_le (h : s.index.toNat + x.val + 1 ≤ 4096) :
    exec (.ldVxMem x) s = .next (s.setVs (s.loaded x)) := by
  have hlen : s.index.toNat + x.val + 1 - s.index.toNat = x.val + 1 := by omega
  rw [exec, execLdVxMem, (s.readRange_some _ _ _).mpr ⟨h, rfl⟩, Option.map_some, State.orFatal_some, hlen, State.loaded]

theorem exec_ldVxMem_of_lt (h : 4096 < s.index.toNat + x.val + 1) :
    exec (.ldVxMem x) s = .next (s.raiseFatal .outOfBounds) := by
  rw [exec, execLdVxMem, (s.readRange_none _ _).mpr h, Option.map_none, State.orFatal_none]

/-- The frame of a load of registers: replacing the register file keeps every other field. -/
theorem State.agreeExcept_setVs (v : Vector Byte 16) : State.AgreeExcept [.v] s (s.setVs v) := by
  simp [State.AgreeExcept]

end

/-- Each decimal digit of a byte fits a byte. -/
theorem toNat_ofNat_digit {n : Nat} (h : n < 256) : (BitVec.ofNat 8 n).toNat = n := by
  rw [BitVec.toNat_ofNat]
  omega

/-- Settles O44: the three digits are written as one range. -/
theorem storeDecimalDigits : Obligations.StoreDecimalDigits := by
  refine ⟨fun x => decodesAs_of_encodeNat (codeXOP_eq 0xF x 0x33), fun x s => ⟨fun hle => ?_, fun hgt => ?_⟩⟩
  · have hbyte := (s.getV x).isLt
    have hread : ∀ j < 3, Memory.read (Memory.writeBytes s.mem s.index.toNat (decimalDigits (s.getV x)))
        (s.index.toNat + j) = (decimalDigits (s.getV x)).getD j 0 := fun j hj => Memory.read_writeBytes_of_lt _ _ _ hj
    refine ⟨_, exec_ldBVx_of_le x s hle, ?_, ?_, ?_, s.writeBytes_frame s.index.toNat (decimalDigits (s.getV x))⟩
    · exact (congrArg BitVec.toNat (hread 0 (by decide))).trans (toNat_ofNat_digit (by omega))
    · exact (congrArg BitVec.toNat (hread 1 (by decide))).trans (toNat_ofNat_digit (by omega))
    · exact (congrArg BitVec.toNat (hread 2 (by decide))).trans (toNat_ofNat_digit (by omega))
  · exact ⟨_, exec_ldBVx_of_lt x s hgt, s.raiseFatal_status _⟩

/-- Settles O45: the registers up to V[x] are written as one range. -/
theorem storeRegisterRange : Obligations.StoreRegisterRange := by
  refine ⟨fun x => decodesAs_of_encodeNat (codeXOP_eq 0xF x 0x55), fun x s => ⟨fun hle => ?_, fun hgt => ?_⟩⟩
  · have hframe := s.writeBytes_frame s.index.toNat (s.dump x)
    rw [s.length_dump x] at hframe
    exact ⟨_, exec_ldMemVx_of_le x s hle, s.read_dumped x, hframe⟩
  · exact ⟨_, exec_ldMemVx_of_lt x s hgt, s.raiseFatal_status _⟩

/-- Settles O46: the bytes of one range are loaded into the registers up to V[x]. -/
theorem loadRegisterRange : Obligations.LoadRegisterRange := by
  refine ⟨fun x => decodesAs_of_encodeNat (codeXOP_eq 0xF x 0x65), fun x s => ⟨fun hle => ?_, fun hgt => ?_⟩⟩
  · refine ⟨_, exec_ldVxMem_of_le x s hle, fun j hj => ?_, fun j hj => ?_, s.agreeExcept_setVs _⟩
    · rw [State.getV_loaded, if_pos hj]
    · rw [State.getV_loaded, if_neg (not_le.mpr hj)]
  · exact ⟨_, exec_ldVxMem_of_lt x s hgt, s.raiseFatal_status _⟩

/-- Settles O47: each loaded register takes the byte that the store wrote for it, and the others are kept. -/
theorem storeThenLoadKeepsRegisters : Obligations.StoreThenLoadKeepsRegisters := by
  intro x s hle
  refine ⟨_, _, exec_ldMemVx_of_le x s hle, exec_ldVxMem_of_le x _ hle, ?_⟩
  have hregs : ∀ j : Reg, ((s.setMem (Memory.writeBytes s.mem s.index.toNat (s.dump x))).setVs
      ((s.setMem (Memory.writeBytes s.mem s.index.toNat (s.dump x))).loaded x)).getV j = s.getV j := by
    intro j
    rw [State.getV_loaded]
    split
    case isTrue hj => exact s.read_dumped x j hj
    case isFalse => rfl
  simp [State.AgreeExcept, hregs]

/-- Settles O48: the next fetch reads the first two bytes of the stored range, which V0 and V1 filled. -/
theorem storeIsSeenByTheNextFetch : Obligations.StoreIsSeenByTheNextFetch := by
  intro x s hrun hx hindex hle
  have hfirst := s.read_dumped x 0 (Fin.zero_le x)
  have hsecond := s.read_dumped x 1 hx
  rw [hindex] at hfirst hsecond
  have hpc : s.pc.toNat + 1 ≤ 4095 := by omega
  refine ⟨_, exec_ldMemVx_of_le x s (hindex ▸ hle), hrun, hpc, ?_⟩
  rw [State.setMem_mem, State.setMem_pc, hindex]
  exact congrArg₂ wordOfBytes hfirst hsecond

end Sys2Proof.Machine
end

section
/-! PROOFS. The key instructions Ex9E, ExA1 and Fx0A, and the timer setters Fx15 and Fx18 (spec/44_input_timers.md R86
to R91). -/

namespace Sys2Proof.Machine

section
variable (x : Reg) (s : State)

theorem exec_skp_of_some {k : Fin 16} (h : nibbleIndex (s.getV x) = some k) :
    exec (.skp x) s = .next (s.skipIf (decide (s.keys[k] = true))) := by
  rw [exec, execSkp, h, Option.map_some, State.orFatal_some, Bool.decide_eq_true]

theorem exec_skp_of_none (h : nibbleIndex (s.getV x) = none) :
    exec (.skp x) s = .next (s.raiseFatal .outOfBounds) := by
  rw [exec, execSkp, h, Option.map_none, State.orFatal_none]

theorem exec_sknp_of_some {k : Fin 16} (h : nibbleIndex (s.getV x) = some k) :
    exec (.sknp x) s = .next (s.skipIf (decide (s.keys[k] = false))) := by
  rw [exec, execSknp, h, Option.map_some, State.orFatal_some, Bool.decide_eq_false]

theorem exec_sknp_of_none (h : nibbleIndex (s.getV x) = none) :
    exec (.sknp x) s = .next (s.raiseFatal .outOfBounds) := by
  rw [exec, execSknp, h, Option.map_none, State.orFatal_none]

/-- Fx0A with a key pressed takes the lowest one. -/
theorem exec_ldVxK_of_some {k : Fin 16} (h : s.lowestPressed = some k) :
    exec (.ldVxK x) s = .next (s.setV x (BitVec.ofNat 8 k.val)) := by
  simp only [exec, execLdVxK, h]

/-- Fx0A with no key pressed goes back to itself. -/
theorem exec_ldVxK_of_none (h : s.lowestPressed = none) : exec (.ldVxK x) s = .next (s.setPc (s.pc - 2)) := by
  simp only [exec, execLdVxK, h, State.retreat_eq]

theorem exec_ldDtVx : exec (.ldDtVx x) s = .next (s.setDt (s.getV x)) := rfl

theorem exec_ldStVx : exec (.ldStVx x) s = .next (s.setSt (s.getV x)) := rfl

/-- The frame of a delay timer write: every other field is kept. -/
theorem State.agreeExcept_setDt (b : Byte) : State.AgreeExcept [.dt] s (s.setDt b) := by
  simp [State.AgreeExcept]

/-- The frame of a sound timer write: every other field is kept. -/
theorem State.agreeExcept_setSt (b : Byte) : State.AgreeExcept [.st] s (s.setSt b) := by
  simp [State.AgreeExcept]

end

/-- Settles O49: both are skips on the key that the register names, one on pressed and the other on released. -/
theorem skipOnKey : Obligations.SkipOnKey := by
  refine ⟨fun x => ⟨decodesAs_of_encodeNat (codeXOP_eq 0xE x 0x9E), decodesAs_of_encodeNat (codeXOP_eq 0xE x 0xA1)⟩,
    fun x s => ⟨fun k hk => ?_, fun hgt => ?_⟩⟩
  · have hkey : nibbleIndex (s.getV x) = some k := (nibbleIndex_some _ _).mpr hk
    obtain ⟨hdown, hup, hframe⟩ := s.skipIf_spec (s.keys[k] = true)
    obtain ⟨hdown', hup', hframe'⟩ := s.skipIf_spec (s.keys[k] = false)
    exact ⟨⟨_, exec_skp_of_some x s hkey, hdown, fun h => hup (ne_true_of_eq_false h), hframe⟩,
      ⟨_, exec_sknp_of_some x s hkey, hdown', fun h => hup' (ne_false_of_eq_true h), hframe'⟩⟩
  · have hkey : nibbleIndex (s.getV x) = none := (nibbleIndex_none _).mpr hgt
    exact ⟨⟨_, exec_skp_of_none x s hkey, s.raiseFatal_status _⟩,
      ⟨_, exec_sknp_of_none x s hkey, s.raiseFatal_status _⟩⟩

/-- Settles O51: the instruction is a register write of the lowest pressed key, or a step back of pc. -/
theorem waitForLowestKey : Obligations.WaitForLowestKey := by
  refine ⟨fun x => decodesAs_of_encodeNat (codeXOP_eq 0xF x 0x0A), fun x s => ⟨fun k hk hlower => ?_, fun hnone => ?_⟩⟩
  · refine ⟨_, exec_ldVxK_of_some x s ((s.lowestPressed_some k).mpr ⟨hk, hlower⟩), ?_, s.setV_frame x _⟩
    have hlt := k.isLt
    rw [State.getV_setV_self, BitVec.toNat_ofNat]
    omega
  · exact ⟨_, exec_ldVxK_of_none x s (s.lowestPressed_none.mpr hnone), rfl, s.agreeExcept_setPc _⟩

/-- Settles O52: the instruction is a delay timer write, which the cycle's tick then follows. -/
theorem setDelayTimer : Obligations.SetDelayTimer := by
  have hdec : ∀ x : Reg, DecodesAs (0xF015 + x.val * 256) (.ldDtVx x) := fun x =>
    decodesAs_of_encodeNat (codeXOP_eq 0xF x 0x15)
  refine ⟨hdec, fun x s => ⟨_, exec_ldDtVx x s, rfl, s.agreeExcept_setDt _⟩, fun x s h => ?_⟩
  have hrun : s.status = .running := h.1
  exact ⟨_, step_of_exec h (hdec x) (exec_ldDtVx x s.fetched) hrun, toNat_tick (s.getV x)⟩

/-! ## No instruction reads the sound timer -/

section
variable (s : State) (b : Byte)

/-- Both runs answer a next state, and the two differ at most in the sound timer. -/
def SameButSound (o p : Host.Outcome State Fault Refusal) : Prop :=
  ∃ t u, o = .next t ∧ p = .next u ∧ State.AgreeExcept [.st] t u

theorem sameButSound_next (t : State) (b : Byte) : SameButSound (.next t) (.next (t.setSt b)) :=
  ⟨t, t.setSt b, rfl, rfl, t.agreeExcept_setSt b⟩

/-- An operation whose effect does not depend on the sound timer: neither does its failure. -/
theorem State.orFatal_sameButSound (kind : FatalKind) (o : Option State) :
    SameButSound (s.orFatal kind o) ((s.setSt b).orFatal kind (o.map fun t => t.setSt b)) := by
  cases o with
  | none => exact sameButSound_next (s.raiseFatal kind) b
  | some t => exact sameButSound_next t b

/-- The same for an operation that computes a value before it writes. -/
theorem State.orFatal_map_sameButSound {α : Type} (kind : FatalKind) (o : Option α) (f : α → State) :
    SameButSound (s.orFatal kind (o.map f)) ((s.setSt b).orFatal kind (o.map fun a => (f a).setSt b)) := by
  have h := s.orFatal_sameButSound b kind (o.map f)
  rwa [Option.map_map] at h

theorem State.setSt_skipIf (c : Bool) : (s.setSt b).skipIf c = (s.skipIf c).setSt b := by
  cases c <;> rfl

theorem State.push_setSt (a : Word) : (s.setSt b).push a = (s.push a).map fun t => t.setSt b := by
  by_cases h : s.sp.val < 16
  · rw [(s.push_some a _).mpr ⟨h, rfl⟩]
    exact ((s.setSt b).push_some a _).mpr ⟨h, rfl⟩
  · rw [(s.push_none a).mpr (by omega)]
    exact ((s.setSt b).push_none a).mpr (by rw [State.setSt_sp]; omega)

theorem State.pop_setSt : (s.setSt b).pop = s.pop.map fun p => (p.1, p.2.setSt b) := by
  by_cases h : 0 < s.sp.val
  · rw [(s.pop_some _ _).mpr ⟨h, rfl, rfl⟩]
    exact ((s.setSt b).pop_some _ _).mpr ⟨h, rfl, rfl⟩
  · rw [s.pop_none.mpr (by omega)]
    exact (s.setSt b).pop_none.mpr (by rw [State.setSt_sp]; omega)

theorem State.writeRange_setSt (lo : Nat) (bs : List Byte) :
    (s.setSt b).writeRange lo bs = (s.writeRange lo bs).map fun t => t.setSt b := by
  simp only [State.writeRange]
  split <;> rfl

/-- Two runs of an instruction that differ only in the sound timer answer states that differ at most in it. -/
theorem exec_sameButSound (i : Instr) : SameButSound (exec i s) (exec i (s.setSt b)) := by
  cases i with
  | ret =>
    have h := s.orFatal_map_sameButSound b .stackUnderflow s.pop fun p => p.2.setPc p.1
    simp only [exec, execRet, State.pop_setSt, Option.map_map]
    exact h
  | call nnn =>
    have h := s.orFatal_map_sameButSound b .stackOverflow (s.push s.pc) fun t => t.setPc (addrWord nnn)
    simp only [exec, execCall, State.setSt_pc, State.push_setSt, Option.map_map]
    exact h
  | ldVxK x =>
    have hkeys : (s.setSt b).lowestPressed = s.lowestPressed := rfl
    cases h : s.lowestPressed with
    | some k =>
      rw [exec_ldVxK_of_some x s h, exec_ldVxK_of_some x _ (hkeys.trans h)]
      exact sameButSound_next _ b
    | none =>
      rw [exec_ldVxK_of_none x s h, exec_ldVxK_of_none x _ (hkeys.trans h)]
      exact sameButSound_next _ b
  | ldBVx x | ldMemVx x =>
    have h := s.orFatal_sameButSound b .outOfBounds
    simp only [exec, execLdBVx, execLdMemVx, State.writeRange_setSt]
    exact h _
  | drw | addIVx | ldFVx | ldVxMem => exact s.orFatal_map_sameButSound b .outOfBounds _ _
  | skp | sknp =>
    simp only [exec, execSkp, execSknp, State.setSt_skipIf]
    exact s.orFatal_map_sameButSound b .outOfBounds _ _
  | seImm | sneImm | seReg | sneReg =>
    simp only [exec, execSeImm, execSneImm, execSeReg, execSneReg, State.setSt_skipIf]
    exact sameButSound_next _ b
  | ldStVx x => exact ⟨_, _, rfl, rfl, State.KeepsExcept.refl.agreeExcept⟩
  | _ => exact sameButSound_next _ b

end

/-- Settles O53: the instruction is a sound timer write, which the cycle's tick then follows, and no instruction reads
the timer. -/
theorem setSoundTimer : Obligations.SetSoundTimer := by
  have hdec : ∀ x : Reg, DecodesAs (0xF018 + x.val * 256) (.ldStVx x) := fun x =>
    decodesAs_of_encodeNat (codeXOP_eq 0xF x 0x18)
  refine ⟨hdec, fun x s => ⟨_, exec_ldStVx x s, rfl, s.agreeExcept_setSt _⟩, fun x s h => ?_,
    fun i s b => exec_sameButSound s b i⟩
  have hrun : s.status = .running := h.1
  exact ⟨_, step_of_exec h (hdec x) (exec_ldStVx x s.fetched) hrun, toNat_tick (s.getV x)⟩

end Sys2Proof.Machine
end

section
/-! PROOFS. Dxyn, and that a second draw undoes the first (spec/40_display.md R52 to R54). -/

namespace Sys2Proof.Machine

theorem flag_eq_zero_or_one (b : Bool) : flag b = 0 ∨ flag b = 1 := by
  cases b
  · exact .inl rfl
  · exact .inr rfl

theorem flag_eq_one_iff (b : Bool) : flag b = 1 ↔ b = true := by
  cases b <;> decide

/-- Framebuffers with equal cells are equal. -/
theorem Framebuffer.ext_cell {f g : Framebuffer} (h : ∀ (r : Fin 32) (c : Fin 64), f[r][c] = g[r][c]) : f = g :=
  Vector.ext fun r hr => Vector.ext fun c hc => h ⟨r, hr⟩ ⟨c, hc⟩

/-- A second draw of one sprite at one place restores the framebuffer, and it collides exactly if a covered cell was off
before the first (R54). -/
theorem Framebuffer.drawSprite_twice (fb : Framebuffer) (px py : Byte) (sprite : List Byte)
    (hlen : sprite.length ≤ 32) :
    ((fb.drawSprite px py sprite).fb.drawSprite px py sprite).fb = fb ∧
      (((fb.drawSprite px py sprite).fb.drawSprite px py sprite).collision = true ↔
        ∃ (r : Fin 32) (c : Fin 64), Covers px py sprite r c ∧ fb[r][c] = false) := by
  obtain ⟨hfirst, -⟩ := fb.drawSprite_spec px py sprite hlen
  obtain ⟨hsecond, hcollision⟩ := (fb.drawSprite px py sprite).fb.drawSprite_spec px py sprite hlen
  constructor
  · refine Framebuffer.ext_cell fun r c => ?_
    by_cases hcov : Covers px py sprite r c
    · rw [(hsecond r c).1 hcov, (hfirst r c).1 hcov, Bool.not_not]
    · rw [(hsecond r c).2 hcov, (hfirst r c).2 hcov]
  · rw [hcollision]
    refine exists_congr fun r => exists_congr fun c => and_congr_right fun hcov => ?_
    rw [(hfirst r c).1 hcov, Bool.not_eq_true']

section
variable (x y : Reg) (n : Fin 16) (s : State)

/-- The sprite that I points at (R52). -/
def State.sprite : List Byte := Memory.readBytes s.mem s.index.toNat n.val

theorem State.length_sprite_le : (s.sprite n).length ≤ 32 := by
  rw [State.sprite, Memory.length_readBytes]
  exact n.isLt.le.trans (by decide)

/-- The canvas after Dxyn has drawn its sprite. -/
def State.drawn : Canvas := s.fb.drawSprite (s.getV x) (s.getV y) (s.sprite n)

/-- Dxyn with its sprite inside memory draws it and sets VF to the collision flag. -/
theorem exec_drw_of_le (h : s.index.toNat + n.val ≤ 4096) : exec (.drw x y n) s =
    .next ((s.setFb (s.drawn x y n).fb).setV 15 (flag (s.drawn x y n).collision)) := by
  have hlen : s.index.toNat + n.val - s.index.toNat = n.val := Nat.add_sub_cancel_left _ _
  rw [exec, execDrw, (s.readRange_some _ _ _).mpr ⟨h, rfl⟩, Option.map_some, State.orFatal_some, hlen]
  rfl

theorem exec_drw_of_lt (h : 4096 < s.index.toNat + n.val) :
    exec (.drw x y n) s = .next (s.raiseFatal .outOfBounds) := by
  rw [exec, execDrw, (s.readRange_none _ _).mpr h, Option.map_none, State.orFatal_none]

/-- The frame of a draw: VF and the framebuffer are written, and no other register or field. -/
theorem State.drawn_frame (fb : Framebuffer) (b : Byte) :
    State.RegsExcept [15] s ((s.setFb fb).setV 15 b) ∧ State.AgreeExcept [.v, .fb] s ((s.setFb fb).setV 15 b) := by
  refine ⟨(s.setFb fb).regsExcept_setV 15 b, ?_⟩
  simp [State.AgreeExcept]

/-- After a first draw a second one draws the same sprite at the same place, where neither coordinate is in VF. -/
theorem State.drawn_setV_flag (fb : Framebuffer) (b : Byte) (hx : x ≠ 15) (hy : y ≠ 15) :
    ((s.setFb fb).setV 15 b).drawn x y n = fb.drawSprite (s.getV x) (s.getV y) (s.sprite n) := by
  rw [State.drawn, State.getV_setV, if_neg hx.symm, State.getV_setV, if_neg hy.symm]
  rfl

end

/-- Settles O25: the cells and the flag are those of the sprite drawn on the framebuffer. -/
theorem drawSpriteInvertsCoveredCells : Obligations.DrawSpriteInvertsCoveredCells := by
  refine ⟨fun x y n => decodesAs_of_encodeNat rfl, fun x y n s => ⟨fun hle => ?_, fun hgt => ?_⟩⟩
  · obtain ⟨hcells, hcollision⟩ := s.fb.drawSprite_spec (s.getV x) (s.getV y) _ (s.length_sprite_le n)
    refine ⟨_, exec_drw_of_le x y n s hle, fun r c => (hcells r c).1, fun r c => (hcells r c).2, ?_, ?_,
      s.drawn_frame _ _⟩
    · rw [State.getV_setV_self]
      exact flag_eq_zero_or_one _
    · rw [State.getV_setV_self, flag_eq_one_iff]
      exact hcollision
  · exact ⟨_, exec_drw_of_lt x y n s hgt, s.raiseFatal_status _⟩

/-- Settles O26: VF is no coordinate, so the second draw is of the same sprite at the same place. -/
theorem drawingTwiceRestoresTheScreen : Obligations.DrawingTwiceRestoresTheScreen := by
  intro x y n s hx hy hle
  obtain ⟨hfb, hcollision⟩ := s.fb.drawSprite_twice (s.getV x) (s.getV y) _ (s.length_sprite_le n)
  refine ⟨_, _, exec_drw_of_le x y n s hle, exec_drw_of_le x y n _ hle, ?_, ?_⟩
  · rw [State.setV_fb, State.setFb_fb, State.drawn_setV_flag x y n s _ _ hx hy]
    exact hfb
  · rw [State.getV_setV_self, flag_eq_one_iff, State.drawn_setV_flag x y n s _ _ hx hy]
    exact hcollision

end Sys2Proof.Machine
end

section
/-! PROOFS. The output port snapshot, and the input port key_set (spec/60_exceptions.md R104, R105). -/

namespace Sys2Proof.Machine

/-- The snapshot as one vector: the rows of pixels one after the other (R104). -/
theorem State.snapshot_eq (s : State) :
    s.snapshot = (s.fb.map fun row => row.map pixel).flatten.toList := by
  simp [State.snapshot, Vector.flatten, Vector.toList, List.flatMap_def, Array.toList_flatten, Function.comp_def]

/-- Settles O54: element r * 64 + c of the rows one after the other is cell c of row r. -/
theorem snapshotIsRowMajor : Obligations.SnapshotIsRowMajor := by
  intro s
  refine ⟨by rw [State.snapshot_eq, Vector.length_toList], fun r c => ?_⟩
  have hr := r.isLt
  have hc := c.isLt
  have hrow : (r.val * 64 + c.val) / 64 = r.val := by omega
  have hcol : (r.val * 64 + c.val) % 64 = c.val := by omega
  have hlt : r.val * 64 + c.val < 32 * 64 := by omega
  rw [State.snapshot_eq, List.getD_eq_getElem _ _ (by rw [Vector.length_toList]; exact hlt), Vector.getElem_toList,
    Vector.getElem_flatten]
  simp only [hrow, hcol, Vector.getElem_map, pixel]
  rfl

/-- Settles O55: a key change writes one entry of the key state. -/
theorem keySetChangesOneKey : Obligations.KeySetChangesOneKey := by
  intro k pressed s
  refine ⟨by simp [keySet], fun j hj => ?_, by simp [State.AgreeExcept, keySet]⟩
  have hne : k.val ≠ j.val := fun h => hj (Fin.ext h.symm)
  simp [keySet, hne]

end Sys2Proof.Machine
end

section
/-! PROOFS. The invariant of every run (spec/10_state.md R16, R19; spec/20_memory.md R31), and the startup and the load
that every run begins with (spec/10_state.md R26; spec/70_reset_and_hazards.md R112). -/

namespace Sys2Proof.Machine

section
variable {s t u : State} {fs : List Field}

/-- The invariant reads four fields. -/
theorem State.Inv.of_keeps (h : s.Inv) (hk : State.KeepsExcept fs s t) (hmem : Field.mem ∉ fs) (hpc : Field.pc ∉ fs)
    (hstack : Field.stack ∉ fs) (hsp : Field.sp ∉ fs) : t.Inv := by
  have emem : t.mem = s.mem := hk .mem hmem
  have epc : t.pc = s.pc := hk .pc hpc
  have estack : t.stack = s.stack := hk .stack hstack
  have esp : t.sp = s.sp := hk .sp hsp
  rw [State.Inv, emem, epc, estack, esp]
  exact h

theorem State.Inv.setPc (h : s.Inv) {a : Word} (ha : a.toNat ≤ 0x10FE) : (s.setPc a).Inv :=
  ⟨h.1, ha, h.2.2⟩

theorem State.Inv.raiseFatal (h : s.Inv) (kind : FatalKind) : (s.raiseFatal kind).Inv := h

theorem State.Inv.tickTimers (h : s.Inv) : s.tickTimers.Inv := h

/-- Bytes written inside the address space keep the invariant. -/
theorem State.Inv.writeBytes (h : s.Inv) {a : Nat} {bs : List Byte} (ha : a + bs.length ≤ 4096) :
    (s.setMem (Memory.writeBytes s.mem a bs)).Inv :=
  ⟨Memory.wf_writeBytes bs s.mem a h.1 ha, h.2⟩

/-- An operation that can fail keeps the invariant where its effect does. -/
theorem State.Inv.orFatal (h : s.Inv) {kind : FatalKind} {o : Option State} (ho : ∀ u, o = some u → u.Inv)
    (ht : s.orFatal kind o = .next t) : t.Inv := by
  obtain hsome | ⟨-, rfl⟩ := s.orFatal_cases kind o t ht
  · exact ho t hsome
  · exact h.raiseFatal kind

/-- A skip keeps the invariant after a fetch. -/
theorem State.Inv.skipIf (h : s.Inv) (hpc : s.pc.toNat ≤ 0x1000) (c : Bool) : (s.skipIf c).Inv := by
  rw [State.skipIf_eq]
  refine h.setPc ?_
  cases c with
  | true =>
    have hsum : (s.pc + 2).toNat = s.pc.toNat + 2 := BitVec.toNat_add_of_lt (by simp; omega)
    rw [if_pos rfl, hsum]
    omega
  | false => exact h.2.1

/-- A pushed address of at most 0x1002 keeps the invariant, and so does a jump to a 12-bit address after it. -/
theorem State.Inv.call (h : s.Inv) (hpc : s.pc.toNat ≤ 0x1000) (hpush : s.push s.pc = some u) (nnn : Addr) :
    (u.setPc (addrWord nnn)).Inv := by
  obtain ⟨hlt, rfl⟩ := (s.push_some s.pc u).mp hpush
  obtain ⟨hmem, -, hstack⟩ := h
  have hnnn := nnn.isLt
  refine ⟨hmem, ?_, fun j hj => ?_⟩
  · rw [State.setPc_pc, toNat_addrWord]
    omega
  · simp only [State.setPc_stack, State.setPc_sp, State.setStack_stack, State.setStack_sp] at hj ⊢
    by_cases hjs : s.sp.val = j.val
    · simp only [Fin.getElem_fin, hjs, Vector.getElem_set_self]
      omega
    · simp only [Fin.getElem_fin, Vector.getElem_set_ne _ _ hjs]
      exact hstack j (by omega)

/-- A popped address is at most 0x1002, and the entries below it are as before. -/
theorem State.Inv.ret (h : s.Inv) {a : Word} (hpop : s.pop = some (a, u)) : (u.setPc a).Inv := by
  obtain ⟨hpos, rfl, rfl⟩ := (s.pop_some a u).mp hpop
  obtain ⟨hmem, -, hstack⟩ := h
  have htop := hstack ⟨s.sp.val - 1, by omega⟩ (Nat.sub_lt hpos Nat.one_pos)
  exact ⟨hmem, htop.trans (by decide), fun j hj => hstack j (Nat.lt_of_lt_of_le hj (Nat.sub_le _ _))⟩

/-- Every instruction keeps the invariant from a pc that a fetch has just moved. -/
theorem exec_inv {i : Instr} (h : s.Inv) (hlo : 2 ≤ s.pc.toNat) (hhi : s.pc.toNat ≤ 0x1000)
    (ht : exec i s = .next t) : t.Inv := by
  have hframe := exec_frame ht
  cases i with
  | ret =>
    refine h.orFatal (fun u hu => ?_) ht
    obtain ⟨⟨a, p⟩, hp, rfl⟩ := Option.map_eq_some_iff.mp hu
    exact h.ret hp
  | call nnn =>
    refine h.orFatal (fun u hu => ?_) ht
    obtain ⟨p, hp, rfl⟩ := Option.map_eq_some_iff.mp hu
    exact h.call hhi hp nnn
  | jp nnn =>
    cases ht
    have hnnn := nnn.isLt
    exact h.setPc (by rw [toNat_addrWord]; omega)
  | jpV0 nnn =>
    cases ht
    have hnnn := nnn.isLt
    have hbyte := (s.getV 0).isLt
    exact h.setPc (by rw [toNat_offsetTarget]; omega)
  | seImm | sneImm | seReg | sneReg =>
    cases ht
    exact h.skipIf hhi _
  | skp | sknp =>
    refine h.orFatal (fun u hu => ?_) ht
    obtain ⟨k, -, rfl⟩ := Option.map_eq_some_iff.mp hu
    exact h.skipIf hhi _
  | ldVxK x =>
    cases hkey : s.lowestPressed with
    | some k =>
      rw [exec_ldVxK_of_some x s hkey] at ht
      cases ht
      exact h
    | none =>
      rw [exec_ldVxK_of_none x s hkey] at ht
      cases ht
      refine h.setPc ?_
      rw [BitVec.toNat_sub_of_le hlo]
      exact (Nat.sub_le _ _).trans h.2.1
  | ldBVx x | ldMemVx x =>
    refine h.orFatal (fun u hu => ?_) ht
    obtain ⟨hle, rfl⟩ := (s.writeRange_some _ _ u).mp hu
    exact h.writeBytes hle
  | _ => exact h.of_keeps hframe (by simp [writes]) (by simp [writes]) (by simp [writes]) (by simp [writes])

/-- A fetch from inside memory moves pc past the word without wrap (R16). -/
theorem State.toNat_fetched_pc (hpc : s.pc.toNat + 1 ≤ 4095) : s.fetched.pc.toNat = s.pc.toNat + 2 :=
  BitVec.toNat_add_of_lt (by simp; omega)

/-- The execution of a fetched word keeps the invariant, whatever the word. -/
theorem execWord_fetched_inv {w : Word} (h : s.Inv) (hw : s.AtWord w)
    (hu : execWord w s.fetched = .next u) : u.Inv := by
  have hpc := State.toNat_fetched_pc hw.2.1
  have hbound : s.pc.toNat + 1 ≤ 4095 := hw.2.1
  have hfetched : s.fetched.Inv := State.Inv.setPc (s := s.closeLoad) h (hpc.le.trans (by omega))
  cases hd : decodeWord w with
  | ok i =>
    rw [execWord_of_ok hd] at hu
    exact exec_inv hfetched (by omega) (by omega) hu
  | error r =>
    rw [execWord_of_error hd] at hu
    cases hu
    exact hfetched

end

/-- Settles O4: a failed fetch changes the status only; a fetch leaves pc in 2..0x1000, from where every instruction and
the report of an unknown word keep the invariant, and so does the tick. -/
theorem stepKeepsInvariant : Obligations.StepKeepsInvariant := by
  intro s t h hstep
  obtain ⟨-, ⟨-, rfl⟩ | ⟨w, u, hw, hu, ht⟩⟩ := step_cases hstep
  · exact h
  · have hinv : u.Inv := execWord_fetched_inv h hw hu
    obtain rfl | rfl := ht
    · exact hinv.tickTimers
    · exact hinv

/-! ## Startup, load and every run -/

/-- A constructed machine meets the invariant: its memory is canonical and its stack is empty. -/
theorem State.inv_construct (p : Startup) (hp : p.wf = true) : (State.construct p).Inv :=
  ⟨State.wf_construct p hp, (by decide : (0x200 : Word).toNat ≤ 0x10FE), fun j hj => absurd hj (Nat.not_lt_zero _)⟩

/-- Settles O1: the font stands at its place and the startup memory around it; the rest is the construction itself. -/
theorem constructedStateHasStartupValues : Obligations.ConstructedStateHasStartupValues := by
  intro p hp
  refine ⟨rfl, rfl, rfl, rfl, rfl, rfl, rfl, rfl, rfl, rfl, fun a ha => ?_, fun a ha => ?_⟩
  · rw [State.read_construct p hp, if_pos (by omega), Nat.add_sub_cancel_left]
  · rw [State.read_construct p hp, if_neg (by omega)]

/-- Settles O2: the reset state is a construction. -/
theorem resetMeetsInvariant : Obligations.ResetMeetsInvariant := by
  refine ⟨?_, rfl, rfl, rfl, rfl, rfl⟩
  rw [State.reset_eq_construct]
  exact State.inv_construct Startup.named (by decide)

/-- Settles O3: a load writes the image as one range, halts on one that is too long, or is refused. -/
theorem loadWritesImageOrHalts : Obligations.LoadWritesImageOrHalts := by
  intro image s
  obtain ⟨hopen, hrun, hlen, hload⟩ | ⟨hopen, hrun, hlen, hload⟩ | ⟨hno, hload⟩ := load_cases image s
  · refine ⟨fun _ _ _ => ⟨_, hload, fun j hj => ?_, ?_, ?_, rfl⟩, fun _ _ hgt => by omega, ?_⟩
    · exact Memory.read_writeBytes_of_lt _ _ _ hj
    · exact s.closeLoad.bytesExcept_writeBytes 0x200 image
    · simp [State.AgreeExcept]
    · simp [hopen, hrun]
  · refine ⟨fun _ _ hle => by omega, fun _ _ _ => ⟨_, hload, s.closeLoad.raiseFatal_status _⟩, ?_⟩
    simp [hopen, hrun]
  · refine ⟨fun hopen hrun => ?_, fun hopen hrun => ?_, fun _ => hload⟩
    · simp [hopen, hrun] at hno
    · simp [hopen, hrun] at hno

/-- A load keeps the invariant: an image that is taken ends at 0x1000 at the latest. -/
theorem load_inv {s t : State} {image : List Byte} (h : s.Inv) (ht : load image s = .next t) : t.Inv := by
  obtain ⟨-, -, hlen, hload⟩ | ⟨-, -, -, hload⟩ | ⟨-, hload⟩ := load_cases image s
  · cases hload.symm.trans ht
    exact State.Inv.writeBytes (s := s.closeLoad) h (by omega)
  · cases hload.symm.trans ht
    exact h
  · cases hload.symm.trans ht

/-- Every input keeps the invariant. -/
theorem react_inv {s t : State} {e : Input} (h : s.Inv) (ht : react e s = .next t) : t.Inv := by
  cases e with
  | load image => exact load_inv h ht
  | cycle => exact stepKeepsInvariant s t h ht
  | keySet k pressed =>
    cases ht
    exact h

/-- Every sequence of inputs keeps the invariant. -/
theorem reactAll_inv (es : List Input) {s t : State} (h : s.Inv) (ht : reactAll es s = .next t) : t.Inv := by
  induction es generalizing s with
  | nil =>
    cases ht
    exact h
  | cons e es ih =>
    rw [reactAll] at ht
    split at ht
    case h_1 u hu => exact ih (react_inv h hu) ht
    case h_2 | h_3 => cases ht

/-- Settles O5: the invariant holds at the construction and every input keeps it. -/
theorem everyRunKeepsInvariant : Obligations.EveryRunKeepsInvariant := fun p es _ hp ht =>
  reactAll_inv es (State.inv_construct p hp) ht

end Sys2Proof.Machine
end

section
/-! PROOFS. How a cycle moves pc, and when it changes VF (spec/10_state.md R11, R15). -/

namespace Sys2Proof.Machine

section
variable {s t : State} {i : Instr}

/-- An operation that left the machine running did not fail. -/
theorem State.orFatal_running {kind : FatalKind} {o : Option State} (h : s.orFatal kind o = .next t)
    (hrun : t.status = .running) : o = some t := by
  obtain hsome | ⟨-, rfl⟩ := s.orFatal_cases kind o t h
  · exact hsome
  · cases (s.raiseFatal_status kind).symm.trans hrun

/-- A skip leaves pc or moves it on by 2. -/
theorem State.skipIf_pc (s : State) (c : Bool) : (s.skipIf c).pc = s.pc ∨ (s.skipIf c).pc = s.pc + 2 := by
  cases c
  · exact .inl rfl
  · exact .inr rfl

/-- An instruction that only skips leaves pc or moves it on by 2. -/
theorem State.next_skipIf_pc {c : Bool} (h : (.next (s.skipIf c) : Host.Outcome State Fault Refusal) = .next t) :
    t.pc = s.pc ∨ t.pc = s.pc + 2 := by
  cases h
  exact s.skipIf_pc c

/-- A skip on a key that left the machine running leaves pc or moves it on by 2. -/
theorem State.orFatal_skipIf_pc {kind : FatalKind} {o : Option (Fin 16)} {c : Fin 16 → Bool}
    (h : s.orFatal kind (o.map fun k => s.skipIf (c k)) = .next t) (hrun : t.status = .running) :
    t.pc = s.pc ∨ t.pc = s.pc + 2 := by
  obtain ⟨k, -, rfl⟩ := Option.map_eq_some_iff.mp (State.orFatal_running h hrun)
  exact s.skipIf_pc (c k)

/-- A call that left the machine running jumped. -/
theorem exec_call_pc {nnn : Addr} (h : exec (.call nnn) s = .next t) (hrun : t.status = .running) :
    t.pc = addrWord nnn := by
  obtain ⟨u, -, rfl⟩ := Option.map_eq_some_iff.mp (State.orFatal_running h hrun)
  rfl

/-- A return takes the top address into pc. -/
theorem exec_ret_pc (h : exec .ret s = .next t) (j : Fin 16) (hj : s.sp.val = j.val + 1) : t.pc = s.stack[j] := by
  rw [exec_ret_of_pos s (by omega)] at h
  cases h
  simp [hj]

/-- Fx0A leaves pc or moves it back by 2. -/
theorem exec_ldVxK_pc {x : Reg} (h : exec (.ldVxK x) s = .next t) : t.pc = s.pc ∨ t.pc = s.pc - 2 := by
  cases hkey : s.lowestPressed with
  | some k =>
    rw [exec_ldVxK_of_some x s hkey] at h
    cases h
    exact .inl rfl
  | none =>
    rw [exec_ldVxK_of_none x s hkey] at h
    cases h
    exact .inr rfl

end

/-- Settles O16: the fetch moves pc past the word, and then the instruction moves it as it alone does, or not at all. -/
theorem pcChangesOnlyAsListed : Obligations.PcChangesOnlyAsListed := by
  intro s w t h
  obtain ⟨u, hu, hrun, rfl⟩ := h.executed
  cases hd : decodeWord w with
  | error r =>
    rw [execWord_of_error hd] at hu
    cases hu
    rfl
  | ok i =>
    rw [execWord_of_ok hd] at hu
    cases i with
    | ret => exact fun j hj => exec_ret_pc hu j hj
    | jp nnn => cases hu; exact toNat_addrWord nnn
    | call nnn => exact (congrArg BitVec.toNat (exec_call_pc hu hrun)).trans (toNat_addrWord nnn)
    | jpV0 nnn => cases hu; exact toNat_offsetTarget _ nnn
    | seImm | sneImm | seReg | sneReg => exact State.next_skipIf_pc hu
    | skp | sknp => exact State.orFatal_skipIf_pc hu hrun
    | ldVxK x => exact exec_ldVxK_pc hu
    | _ => exact exec_same hu .pc (by decide) (by simp [writes])

section
variable {s t : State} {i : Instr} {x : Reg}

theorem byte_eq_zero_or_one {b : Byte} (h : b.toNat < 2) : b = 0 ∨ b = 1 := by
  bv_omega

/-- A flag instruction that left the machine running wrote 0 or 1 to VF. -/
theorem exec_flag (h : exec i s = .next t) (hrun : t.status = .running) (hi : setsFlag i = true) :
    t.getV 15 = 0 ∨ t.getV 15 = 1 := by
  cases i with
  | addReg | sub | subn =>
    cases h
    rw [State.getV_setResultAndFlag_flag]
    exact flag_eq_zero_or_one _
  | shr x y =>
    cases h
    rw [State.getV_setResultAndFlag_flag]
    refine byte_eq_zero_or_one ?_
    rw [toNat_flagLowBit]
    exact Nat.mod_lt _ (by decide)
  | shl x y =>
    cases h
    rw [State.getV_setResultAndFlag_flag]
    refine byte_eq_zero_or_one ?_
    rw [toNat_flagHighBit]
    exact Nat.div_lt_of_lt_mul (s.getV x).isLt
  | drw x y n =>
    obtain ⟨sprite, -, rfl⟩ := Option.map_eq_some_iff.mp (State.orFatal_running h hrun)
    rw [State.getV_setV_self]
    exact flag_eq_zero_or_one _
  | _ => cases hi

/-- A write of a register other than VF keeps VF. -/
theorem State.getV_setV_VF (s : State) (b : Byte) (hx : x ≠ 15) : (s.setV x b).getV 15 = s.getV 15 := by
  rw [State.getV_setV, if_neg hx]

/-- An instruction that neither sets a flag nor names VF keeps VF. -/
theorem exec_keeps_VF (h : exec i s = .next t) (hflag : setsFlag i = false) (hnames : namesVF i = false) :
    t.getV 15 = s.getV 15 := by
  have hsame : Field.v ∉ writes i → t.getV 15 = s.getV 15 := fun hv => by
    have hregs : t.v = s.v := exec_same h .v (by decide) hv
    rw [State.getV, State.getV, hregs]
  cases i with
  | ldImm x | addImm x | ldReg x | orReg x | andReg x | xorReg x | ldVxDt x =>
    cases h
    exact s.getV_setV_VF _ (of_decide_eq_false hnames)
  | rnd x kk =>
    cases h
    exact s.afterDraw.getV_setV_VF _ (of_decide_eq_false hnames)
  | ldVxK x =>
    cases hkey : s.lowestPressed with
    | some k =>
      rw [exec_ldVxK_of_some x s hkey] at h
      cases h
      exact s.getV_setV_VF _ (of_decide_eq_false hnames)
    | none =>
      rw [exec_ldVxK_of_none x s hkey] at h
      cases h
      rfl
  | ldVxMem x =>
    have hx : x ≠ 15 := of_decide_eq_false hnames
    rcases Nat.lt_or_ge 4096 (s.index.toNat + x.val + 1) with hgt | hle
    · rw [exec_ldVxMem_of_lt x s hgt] at h
      cases h
      rfl
    · rw [exec_ldVxMem_of_le x s hle] at h
      cases h
      have habove : ¬15 ≤ x := fun hle => hx (Fin.le_antisymm (Fin.le_last x) hle)
      rw [State.getV_loaded, if_neg habove]
  | addReg | sub | shr | subn | shl | drw => cases hflag
  | _ => exact hsame (by simp [writes])

end

/-- Settles O22: a flag instruction writes its flag last, and any other writes only the registers that it names. -/
theorem vfWrittenOnlyAsFlagOrDestination : Obligations.VFWrittenOnlyAsFlagOrDestination := by
  intro s w i t h hi
  obtain ⟨u, hu, hrun, rfl⟩ := h.executed
  rw [execWord_of_ok hi] at hu
  have hflag : setsFlag i = true → u.getV 15 = 0 ∨ u.getV 15 = 1 := exec_flag hu hrun
  have hkept : setsFlag i = false → namesVF i = false → u.getV 15 = s.fetched.getV 15 := exec_keeps_VF hu
  exact ⟨hflag, hkept⟩

end Sys2Proof.Machine
end
